-- ==== Sys2Proof/Word.lean ====
section
/-! DEFINITION. The words of PSXVERB-CORE: one host access, register, sample or delay-memory word is 32 bits
(spec 20_memory.md R71, R74, R76); a byte lane is 8 bits (R75). -/

namespace Sys2Proof

/-- A byte lane of a word (20_memory.md R75). -/
abbrev Byte := BitVec 8

/-- A register, a command, a sample or a delay-memory word: 32 bits (00_scope.md R9, R10). -/
abbrev Word := BitVec 32

/-- A 16-bit field of a preset record (10_state.md R55). -/
abbrev Half := BitVec 16

/-- A binary64 pattern, the type `f64` of 00_scope.md R10. -/
abbrev DWord := BitVec 64

end Sys2Proof
end

