-- ==== Sys2Proof/Syntax.lean ====
section
/-! DEFINITION. The nine commands of spec/opcode_table.json (30_encoding.md R103), one constructor per row. The
f32 operand of INIT and the gain setters is no part of the command word: it is PENDING.ARG (R100, R102). -/

namespace Sys2Proof

/-- A command. `imm` is the field IMM8 and `n` the field N16, zero-extended (30_encoding.md R101, R102). -/
inductive Instr where
  /-- NOP, OPC 0x00 (R150). -/
  | nop
  /-- INIT, OPC 0x01: ARG is the sample rate (R151). -/
  | init
  /-- SET_PRESET, OPC 0x02: `imm` is the preset index (R152). -/
  | setPreset (imm : Nat)
  /-- SET_WET, OPC 0x03: ARG is the wet gain (R154). -/
  | setWet
  /-- SET_DRY, OPC 0x04: ARG is the dry gain (R155). -/
  | setDry
  /-- SET_MASTER, OPC 0x05: ARG is the master gain (R156). -/
  | setMaster
  /-- SET_CRUSH, OPC 0x06: `imm` is the crush level (R210). -/
  | setCrush (imm : Nat)
  /-- SET_CHANNELS, OPC 0x07: `imm` is the input channel count (R230). -/
  | setChannels (imm : Nat)
  /-- PROCESS, OPC 0x08: `n` is the block length in samples (R232). -/
  | process (n : Nat)
  deriving DecidableEq, Repr

end Sys2Proof
end

