-- ==== Sys2Proof/WellFormed.lean ====
section
/-! DEFINITION. A command is well formed when its operands fit their fields (30_encoding.md R101, R102). No other
operand value is an encoding error (R104, R106). -/

namespace Sys2Proof

/-- The operands fit the 8 bits of IMM8 and the 16 bits of N16 (30_encoding.md R102). -/
def Instr.wellFormed : Instr → Bool
  | .nop => true
  | .init => true
  | .setPreset imm => imm < 2 ^ 8
  | .setWet => true
  | .setDry => true
  | .setMaster => true
  | .setCrush imm => imm < 2 ^ 8
  | .setChannels imm => imm < 2 ^ 8
  | .process n => n < 2 ^ 16

end Sys2Proof
end

