-- ==== Sys2Proof/Decode.lean ====
section
/-! DEFINITION. Decoding a command word and encoding a command (30_encoding.md R100 to R107). Decoding is total:
a word is one of the nine commands or has a reserved opcode, by its low eight bits alone (R106). -/

namespace Sys2Proof

/-- Why a word is no command: its opcode, 0x09 to 0xFF, is reserved (30_encoding.md R105). -/
inductive DecodeReject where
  | reservedOpcode (opc : Byte)
  deriving DecidableEq, Repr

/-- Field OPC, bits [7:0] (R101). -/
def opcField (w : Word) : Byte := w.extractLsb' 0 8

/-- Field IMM8, bits [15:8], zero-extended (R101, R102). -/
def immField (w : Word) : Nat := (w.extractLsb' 8 8).toNat

/-- Field N16, bits [31:16], zero-extended (R101, R102). -/
def nField (w : Word) : Nat := (w.extractLsb' 16 16).toNat

/-- The opcode map (R103); every other opcode is reserved (R105). Fields a command does not use are ignored
(R104). -/
def decode (w : Word) : Except DecodeReject Instr :=
  match (opcField w).toNat with
  | 0x00 => .ok .nop
  | 0x01 => .ok .init
  | 0x02 => .ok (.setPreset (immField w))
  | 0x03 => .ok .setWet
  | 0x04 => .ok .setDry
  | 0x05 => .ok .setMaster
  | 0x06 => .ok (.setCrush (immField w))
  | 0x07 => .ok (.setChannels (immField w))
  | 0x08 => .ok (.process (nField w))
  | _    => .error (.reservedOpcode (opcField w))

/-- A word of format C: N16 in bits [31:16], IMM8 in [15:8], OPC in [7:0] (R101). -/
def formatC (n imm opc : Nat) : Word :=
  BitVec.ofNat 32 (n % 2 ^ 16 * 2 ^ 16 + imm % 2 ^ 8 * 2 ^ 8 + opc % 2 ^ 8)

/-- The opcode of a command (R103). -/
def Instr.opcode : Instr → Nat
  | .nop => 0x00
  | .init => 0x01
  | .setPreset _ => 0x02
  | .setWet => 0x03
  | .setDry => 0x04
  | .setMaster => 0x05
  | .setCrush _ => 0x06
  | .setChannels _ => 0x07
  | .process _ => 0x08

/-- The word of a command, unused fields zero (R104, R107). -/
def encode (i : Instr) : Word :=
  match i with
  | .nop => formatC 0 0 i.opcode
  | .init => formatC 0 0 i.opcode
  | .setPreset imm => formatC 0 imm i.opcode
  | .setWet => formatC 0 0 i.opcode
  | .setDry => formatC 0 0 i.opcode
  | .setMaster => formatC 0 0 i.opcode
  | .setCrush imm => formatC 0 imm i.opcode
  | .setChannels imm => formatC 0 imm i.opcode
  | .process n => formatC n 0 i.opcode

/-- The command word that an opcode-table word of `nbits` bits stands for: the bits above are zero. -/
def tableWord (nbits w : Nat) : Word := BitVec.ofNat 32 (w % 2 ^ nbits)

/-- What the decoder reads from a word of the opcode table; none for a reserved opcode. A command is one 32-bit
word, written whole to CMD (R100), so there is no byte order to choose. -/
def decodeTableWord (nbits w : Nat) : Option Instr := (decode (tableWord nbits w)).toOption

end Sys2Proof
end

