-- ==== Sys2Proof/Config.lean ====
section
/-! DEFINITION. What an implementation fixes (00_scope.md R7), the layout of the host window (20_memory.md R70),
and the free values: constants without a body that stand for what the spec leaves open. -/

namespace Sys2Proof

namespace Config

/-- BLOCK_MAX, samples per channel of the sample memories (R7, R50, R74; decision D5). -/
def blockMax : Nat := 8192

/-- MAX_BUF_LOG2, log2 of the delay memory's length in words (R7, R51, R76; decision D6). -/
def maxBufLog2 : Nat := 19

/-- The delay memory's length in words, 2^MAX_BUF_LOG2 (R76). -/
def bufCap : Nat := 2 ^ maxBufLog2

/-- APF_LAG, the extra lag of the all-pass delayed read (R7, R181; decision D20). -/
def apfLag : Nat := 1

/-- INITIAL_PRESET, the preset selected at reset (R7, R45; decision D31). -/
def initialPreset : Fin 10 := 0

/-- ID_VALUE, the bytes "PSXV" (R7, R31; decision D1). -/
def idValue : Word := 0x50535856

/-- LONGEST, the largest buffer need of any preset at the native rate (R6). -/
def longest : Nat := 49184

/-- NATIVE_RATE, denominator of the stretch factor (R6). -/
def nativeRate : Nat := 22050

/-- OFFSET_SCALE, the factor on every offset field (R6). -/
def offsetScale : Nat := 4

/-- Q15_DIV, the divisor of a gain field (R6). -/
def q15Div : Nat := 32768

/-- CRUSH_MAX, the largest crush level (R6). -/
def crushMax : Nat := 3

/-- DEPTH_L2, quantiser bit depth at crush level 2 (R6). -/
def depthL2 : Nat := 12

/-- DEPTH_L3, quantiser bit depth at crush level 3 (R6). -/
def depthL3 : Nat := 10

/-- Bytes of the host window (R70). -/
def windowBytes : Nat := 0x40000

/-- Window offset of SL[0] (R70, R74). -/
def slBase : Nat := 0x10000

/-- Window offset of SR[0] (R70, R74). -/
def srBase : Nat := 0x20000

end Config

/-- Names one NaN result: the epoch is the value of the free-value counter, the site numbers the operation
(log 6). Two operations of one run never share a tag. -/
structure NanTag where
  epoch : Nat
  site  : Nat
  deriving DecidableEq, Repr

/-- The tag `k` sites further on. -/
def NanTag.at (t : NanTag) (k : Nat) : NanTag := { t with site := t.site + k }

namespace Config

/-- FREE VALUE (log 6): the fraction of the NaN that NAN_VALUE gives an operation (R7, R11, D33). -/
opaque nanPayload : NanTag → Nat

/-- FREE VALUE (log 6): the sign of that NaN. -/
opaque nanSign : NanTag → Bool

/-- FREE VALUE (log 7): byte `addr` of a memory whose contents are unspecified, under the seed of the event
that left them so (70_reset_and_hazards.md R281, R286). -/
opaque freeByte : (seed addr : Nat) → Byte

/-- FREE VALUE (log 5): an unspecified 32-bit value that a host read returns (R280, R286). -/
opaque freeWord : Nat → Word

end Config

end Sys2Proof
end

