-- ==== Sys2Proof/Machine/Memory.lean ====
section
/-! DEFINITION. A memory as plain data: a list of (address, byte) cells in one canonical form, over a background that
says what an unlisted byte holds. Words are four bytes, byte lane k at address + k (20_memory.md R75). -/

namespace Sys2Proof.Machine

/-- What the unlisted bytes of a stretch of memory hold: zero, or an unspecified byte that a free value stands
for, under the seed of the event that left the stretch so (log 7). -/
inductive Fill where
  | zero
  | free (seed : Nat)
  deriving DecidableEq, Repr

/-- A stretch of background, from the end of the stretch before it up to (not including) `extent`. -/
structure Region where
  extent : Nat
  fill   : Fill
  deriving DecidableEq, Repr

/-- A memory: cells by rising address, over stretches by rising extent; past the last stretch the background is
zero. -/
structure Memory where
  cells : List Host.Cell
  fills : List Region
  deriving DecidableEq, Repr

/-- The byte listed at an address. -/
def lookupCell (a : Nat) : List Host.Cell → Option Byte
  | [] => none
  | (k, b) :: rest => if k = a then some b else lookupCell a rest

/-- The cells with byte `b` at `a`, in rising order. -/
def insertCell (a : Nat) (b : Byte) : List Host.Cell → List Host.Cell
  | [] => [(a, b)]
  | (k, c) :: rest =>
    if a < k then (a, b) :: (k, c) :: rest
    else if a = k then (a, b) :: rest
    else (k, c) :: insertCell a b rest

/-- The cells without one at `a`. -/
def eraseCell (a : Nat) (cells : List Host.Cell) : List Host.Cell := cells.filter (fun c => c.1 != a)

/-- The fill of the first stretch that reaches past `a`. -/
def fillAt (a : Nat) : List Region → Fill
  | [] => .zero
  | r :: rest => if a < r.extent then r.fill else fillAt a rest

/-- What an unlisted address reads as, THE one definition: zero where the background is zero, no value where it is
unspecified. -/
def Memory.unlisted (m : Memory) (a : Nat) : Option Byte :=
  match fillAt a m.fills with
  | .zero => some 0
  | .free _ => none

/-- The byte at `a`: the listed one, else zero or the free byte of the background. -/
def Memory.byte (m : Memory) (a : Nat) : Byte :=
  match lookupCell a m.cells with
  | some b => b
  | none =>
    match fillAt a m.fills with
    | .zero => 0
    | .free seed => Config.freeByte seed a

/-- Stores a byte, keeping the canonical form: a byte equal to what the unlisted address reads as is not listed. -/
def Memory.setByte (m : Memory) (a : Nat) (b : Byte) : Memory :=
  { m with cells := if m.unlisted a = some b then eraseCell a m.cells else insertCell a b m.cells }

/-- The word at `a`, lane k from address `a + k` (R75). -/
def Memory.word (m : Memory) (a : Nat) : Word :=
  m.byte (a + 3) ++ m.byte (a + 2) ++ m.byte (a + 1) ++ m.byte a

/-- Stores a word, lane k at address `a + k` (R75). -/
def Memory.setWord (m : Memory) (a : Nat) (v : Word) : Memory :=
  (((m.setByte a (v.extractLsb' 0 8)).setByte (a + 1) (v.extractLsb' 8 8)).setByte (a + 2)
    (v.extractLsb' 16 8)).setByte (a + 3) (v.extractLsb' 24 8)

/-- The fill that begins a list of stretches. -/
def firstFill : List Region → Fill
  | [] => .zero
  | r :: _ => r.fill

/-- The stretches with `[0, ext)` filled anew. -/
def pushFill (ext : Nat) (f : Fill) (fills : List Region) : List Region :=
  let rest := fills.filter (fun r => decide (ext < r.extent))
  if firstFill rest = f then rest else ⟨ext, f⟩ :: rest

/-- Every byte below `ext` takes the fill `f`; every other byte keeps what it holds (20_memory.md R78). -/
def Memory.fillBelow (m : Memory) (ext : Nat) (f : Fill) : Memory :=
  if ext = 0 then m
  else { cells := m.cells.filter (fun c => decide (ext ≤ c.1)), fills := pushFill ext f m.fills }

/-- Neighbouring stretches rise and differ, and the last differs from the zero beyond it. -/
def fillsCanonical : List Region → Bool
  | [] => true
  | r :: rest =>
    decide (0 < r.extent) && decide (firstFill rest ≠ r.fill) && rest.all (fun q => decide (r.extent < q.extent)) &&
      fillsCanonical rest

/-- Addresses rise strictly. -/
def cellsRise : List Host.Cell → Bool
  | [] => true
  | c :: rest => rest.all (fun d => decide (c.1 < d.1)) && cellsRise rest

/-- The canonical form: rising addresses, no cell equal to what its address reads as unlisted, canonical
stretches. -/
def Memory.wf (m : Memory) : Bool :=
  cellsRise m.cells && m.cells.all (fun c => decide (m.unlisted c.1 ≠ some c.2)) && fillsCanonical m.fills

end Sys2Proof.Machine
end

