-- ==== Sys2Proof/Machine/Presets.lean ====
section
/-! DEFINITION. The two open parameters of 00_scope.md R7 as plain data: PRESET_TABLE (10_state.md R55 to R60), ten
records of 32 fields, with the candidate values of R58, which the spec takes from general knowledge (log 9); and
IIR_RETUNE (40_preset_load.md R136), given by the points where it departs from the default formula (log 12). -/

namespace Sys2Proof.Machine

/-- A preset: ten gains and twenty-two offsets, each a 16-bit pattern, in the order of R56 (R55). -/
structure Preset where
  dAPF1   : Half
  dAPF2   : Half
  vIIR    : Half
  vCOMB1  : Half
  vCOMB2  : Half
  vCOMB3  : Half
  vCOMB4  : Half
  vWALL   : Half
  vAPF1   : Half
  vAPF2   : Half
  mLSAME  : Half
  mRSAME  : Half
  mLCOMB1 : Half
  mRCOMB1 : Half
  mLCOMB2 : Half
  mRCOMB2 : Half
  dLSAME  : Half
  dRSAME  : Half
  mLDIFF  : Half
  mRDIFF  : Half
  mLCOMB3 : Half
  mRCOMB3 : Half
  mLCOMB4 : Half
  mRCOMB4 : Half
  dLDIFF  : Half
  dRDIFF  : Half
  mLAPF1  : Half
  mRAPF1  : Half
  mLAPF2  : Half
  mRAPF2  : Half
  vLIN    : Half
  vRIN    : Half
  deriving DecidableEq, Repr

/-- The twenty-two offset fields (R55, R56). -/
def Preset.offsets (p : Preset) : List Half :=
  [p.dAPF1, p.dAPF2, p.mLSAME, p.mRSAME, p.mLCOMB1, p.mRCOMB1, p.mLCOMB2, p.mRCOMB2, p.dLSAME, p.dRSAME,
    p.mLDIFF, p.mRDIFF, p.mLCOMB3, p.mRCOMB3, p.mLCOMB4, p.mRCOMB4, p.dLDIFF, p.dRDIFF, p.mLAPF1, p.mRAPF1,
    p.mLAPF2, p.mRAPF2]

/-- Preset 0, Room (R57, R58; log 9). -/
def room : Preset :=
  ⟨0x007D, 0x005B, 0x6D80, 0x54B8, 0xBED0, 0x0000, 0x0000, 0xBA80,
    0x5800, 0x5300, 0x04D6, 0x0333, 0x03F0, 0x0227, 0x0374, 0x01EF,
    0x0334, 0x01B5, 0x0000, 0x0000, 0x0000, 0x0000, 0x0000, 0x0000,
    0x0000, 0x0000, 0x01B4, 0x0136, 0x00B8, 0x005C, 0x8000, 0x8000⟩

/-- Preset 1, Studio Small (R57, R58; log 9). -/
def studioSmall : Preset :=
  ⟨0x0033, 0x0025, 0x70F0, 0x4FA8, 0xBCE0, 0x4410, 0xC0F0, 0x9C00,
    0x5280, 0x4EC0, 0x03E4, 0x031B, 0x03A4, 0x02AF, 0x0372, 0x0266,
    0x031C, 0x025D, 0x025C, 0x018E, 0x022F, 0x0135, 0x01D2, 0x00B7,
    0x018F, 0x00B5, 0x00B4, 0x0080, 0x004C, 0x0026, 0x8000, 0x8000⟩

/-- Preset 2, Studio Medium (R57, R58; log 9). -/
def studioMedium : Preset :=
  ⟨0x00B1, 0x007F, 0x70F0, 0x4FA8, 0xBCE0, 0x4510, 0xBEF0, 0xB4C0,
    0x5280, 0x4EC0, 0x0904, 0x076B, 0x0824, 0x065F, 0x07A2, 0x0616,
    0x076C, 0x05ED, 0x05EC, 0x042E, 0x050F, 0x0305, 0x0462, 0x02B7,
    0x042F, 0x0265, 0x0264, 0x01B2, 0x0100, 0x0080, 0x8000, 0x8000⟩

/-- Preset 3, Studio Large (R57, R58; log 9). -/
def studioLarge : Preset :=
  ⟨0x00E3, 0x00A9, 0x6F60, 0x4FA8, 0xBCE0, 0x4510, 0xBEF0, 0xA680,
    0x5680, 0x52C0, 0x0DFB, 0x0B58, 0x0D09, 0x0A3C, 0x0BD9, 0x0973,
    0x0B59, 0x08DA, 0x08D9, 0x05E9, 0x07EC, 0x04B0, 0x06EF, 0x03D2,
    0x05EA, 0x031D, 0x031C, 0x0238, 0x0154, 0x00AA, 0x8000, 0x8000⟩

/-- Preset 4, Hall (R57, R58; log 9). -/
def hall : Preset :=
  ⟨0x01A5, 0x0139, 0x6000, 0x5000, 0x4C00, 0xB800, 0xBC00, 0xC000,
    0x6000, 0x5C00, 0x15BA, 0x11BB, 0x14C2, 0x10BD, 0x11BC, 0x0DC1,
    0x11C0, 0x0DC3, 0x0DC0, 0x09C1, 0x0BC4, 0x07C1, 0x0A00, 0x06CD,
    0x09C2, 0x05C1, 0x05C0, 0x041A, 0x0274, 0x013A, 0x8000, 0x8000⟩

/-- Preset 5, Half Echo (R57, R58; log 9). -/
def halfEcho : Preset :=
  ⟨0x0017, 0x0013, 0x70F0, 0x4FA8, 0xBCE0, 0x4510, 0xBEF0, 0x8500,
    0x5F80, 0x54C0, 0x0371, 0x02AF, 0x02E5, 0x01DF, 0x02B0, 0x01D7,
    0x0358, 0x026A, 0x01D6, 0x011E, 0x012D, 0x00B1, 0x011F, 0x0059,
    0x01A0, 0x00E3, 0x0058, 0x0040, 0x0028, 0x0014, 0x8000, 0x8000⟩

/-- Preset 6, Space Echo (R57, R58; log 9). -/
def spaceEcho : Preset :=
  ⟨0x033D, 0x0231, 0x7E00, 0x5000, 0xB400, 0xB000, 0x4C00, 0xB000,
    0x6000, 0x5400, 0x1ED6, 0x1A31, 0x1D14, 0x183B, 0x1BC2, 0x16B2,
    0x1A32, 0x15EF, 0x15EE, 0x1055, 0x1334, 0x0F2D, 0x11F6, 0x0C5D,
    0x1056, 0x0AE1, 0x0AE0, 0x07A2, 0x0464, 0x0232, 0x8000, 0x8000⟩

/-- Preset 7, Chaos Echo (R57, R58; log 9). -/
def chaosEcho : Preset :=
  ⟨0x0001, 0x0001, 0x7FFF, 0x7FFF, 0x0000, 0x0000, 0x0000, 0x8100,
    0x0000, 0x0000, 0x1FFF, 0x0FFF, 0x1005, 0x0005, 0x0000, 0x0000,
    0x1005, 0x0005, 0x0000, 0x0000, 0x0000, 0x0000, 0x0000, 0x0000,
    0x0000, 0x0000, 0x1004, 0x1002, 0x0004, 0x0002, 0x8000, 0x8000⟩

/-- Preset 8, Delay (R57, R58; log 9). -/
def delayPreset : Preset :=
  ⟨0x0001, 0x0001, 0x7FFF, 0x7FFF, 0x0000, 0x0000, 0x0000, 0x0000,
    0x0000, 0x0000, 0x1FFF, 0x0FFF, 0x1005, 0x0005, 0x0000, 0x0000,
    0x1005, 0x0005, 0x0000, 0x0000, 0x0000, 0x0000, 0x0000, 0x0000,
    0x0000, 0x0000, 0x1004, 0x1002, 0x0004, 0x0002, 0x8000, 0x8000⟩

/-- Preset 9, Off (R57, R58; log 9). -/
def off : Preset :=
  ⟨0x0000, 0x0000, 0x0000, 0x0000, 0x0000, 0x0000, 0x0000, 0x0000,
    0x0000, 0x0000, 0x0001, 0x0001, 0x0001, 0x0001, 0x0001, 0x0001,
    0x0000, 0x0000, 0x0001, 0x0001, 0x0001, 0x0001, 0x0001, 0x0001,
    0x0000, 0x0000, 0x0001, 0x0001, 0x0001, 0x0001, 0x0000, 0x0000⟩

/-- The candidate PRESET_TABLE, indices 0 to 9 in the order of R57 (R58; log 9). -/
def presetTable : Vector Preset 10 :=
  #v[room, studioSmall, studioMedium, studioLarge, hall, halfEcho, spaceEcho, chaosEcho, delayPreset, off]

/-- One point of an IIR_RETUNE: the value it gives at a coefficient and a rate, all f32 (R7). -/
structure RetunePoint where
  alpha  : Word
  rate   : Word
  result : Word
  deriving DecidableEq, Repr

/-- The open parameters of R7. Every table and every function is one of these: a function of two f32 words has finitely
many points (log 19). -/
structure Params where
  /-- PRESET_TABLE (R7, R58, R60). -/
  table : Vector Preset 10
  /-- Where IIR_RETUNE is not the default formula of R136; empty for the default (R7). -/
  retunePoints : List RetunePoint
  deriving DecidableEq, Repr

/-- The candidate table and the default IIR_RETUNE (R7; logs 9 and 12). -/
def Params.default : Params := { table := presetTable, retunePoints := [] }

/-- `lookup(index)`: defined for 0 to 9, a no-op elsewhere (R60). -/
def Params.lookup (ps : Params) (i : Nat) : Option Preset := ps.table[i]?

/-- The record of a selected preset (R45, R60). -/
def Params.presetAt (ps : Params) (i : Fin 10) : Preset := ps.table[i]

/-- What IIR_RETUNE is given to be at a point, if it departs from the default there (R7). -/
def Params.retunePoint (ps : Params) (alpha rate : Word) : Option Word :=
  (ps.retunePoints.find? (fun p => p.alpha == alpha && p.rate == rate)).map RetunePoint.result

/-- The well-formedness R59 asks of a record: every offset field times 4 is below LONGEST. -/
def Preset.offsetsBelowLongest (p : Preset) : Bool :=
  p.offsets.all (fun f => decide (Config.offsetScale * f.toNat < Config.longest))

end Sys2Proof.Machine
end

