-- ==== Sys2Proof/Machine/State.lean ====
section
/-! DEFINITION. The state of one block (10_state.md R61), its inputs, and the state right after reset
(70_reset_and_hazards.md R281). -/

namespace Sys2Proof.Machine

/-- The error codes of STATUS.ERRCODE (60_exceptions.md R251); codes 7 to 15 are never produced. -/
inductive ErrCode where
  /-- 0: no error since ERR was last cleared. -/
  | none
  /-- 1: reserved opcode. -/
  | badOpcode
  /-- 2: CMD written while BUSY. -/
  | busy
  /-- 3: PROCESS before a successful INIT. -/
  | notInit
  /-- 4: PROCESS with N above BLOCK_MAX. -/
  | blockLen
  /-- 5: INIT with a rate that is NaN, infinite, zero or negative. -/
  | badRate
  /-- 6: INIT with a rate whose buffer exceeds the delay memory. -/
  | bufCap
  deriving DecidableEq, Repr

/-- DERIVED (10_state.md R52): the run-time offsets `S_…` and gains `g_…` of the active preset, in the field order
of R56. -/
structure Derived where
  S_dAPF1   : Word
  S_dAPF2   : Word
  g_vIIR    : Word
  g_vCOMB1  : Word
  g_vCOMB2  : Word
  g_vCOMB3  : Word
  g_vCOMB4  : Word
  g_vWALL   : Word
  g_vAPF1   : Word
  g_vAPF2   : Word
  S_mLSAME  : Word
  S_mRSAME  : Word
  S_mLCOMB1 : Word
  S_mRCOMB1 : Word
  S_mLCOMB2 : Word
  S_mRCOMB2 : Word
  S_dLSAME  : Word
  S_dRSAME  : Word
  S_mLDIFF  : Word
  S_mRDIFF  : Word
  S_mLCOMB3 : Word
  S_mRCOMB3 : Word
  S_mLCOMB4 : Word
  S_mRCOMB4 : Word
  S_dLDIFF  : Word
  S_dRDIFF  : Word
  S_mLAPF1  : Word
  S_mRAPF1  : Word
  S_mLAPF2  : Word
  S_mRAPF2  : Word
  g_vLIN    : Word
  g_vRIN    : Word
  deriving DecidableEq, Repr

/-- The record DERIVED holds at reset, where the spec leaves it unspecified and never read (R281; log 8). -/
def Derived.zero : Derived :=
  ⟨0, 0, 0, 0, 0, 0, 0, 0, 0, 0, 0, 0, 0, 0, 0, 0, 0, 0, 0, 0, 0, 0, 0, 0, 0, 0, 0, 0, 0, 0, 0, 0⟩

/-- PENDING (10_state.md R53): the accepted command word and its operand; meaningful while BUSY. -/
structure Pending where
  cmd : Word
  arg : Word
  deriving DecidableEq, Repr

/-- A host bus access of `size` bytes at byte offset `off` of the window (20_memory.md R71, R73). -/
inductive BusAccess where
  | read (size off : Nat)
  | write (size off : Nat) (v : Word)
  deriving DecidableEq, Repr

/-- What the block answered the last host access (20_memory.md R71 to R73). The MODEL's own record (log 3). -/
inductive BusResponse where
  /-- No access yet. -/
  | none
  /-- A read completed with this word. -/
  | data (v : Word)
  /-- A write completed. -/
  | written
  /-- The bus error response of R73, R257. -/
  | busError
  deriving DecidableEq, Repr

/-- One input: which agent moves next, and how (60_exceptions.md R250, R252; 70_reset_and_hazards.md R280; log 1). -/
inductive Event where
  /-- The engine's turn: it executes the pending command, if there is one. -/
  | engine
  /-- The host performs an access. -/
  | access (a : BusAccess)
  /-- The reset input is asserted; a command in execution is abandoned before its atomic step. -/
  | assertReset
  /-- The reset input is asserted; a command in execution is abandoned after its atomic step. -/
  | assertResetAfterStep
  /-- The reset input is released. -/
  | releaseReset
  deriving DecidableEq, Repr

/-- Where a step stops. -/
inductive Fault where
  /-- Raised by a host access to an offset that is not in the block's window (20_memory.md R70). Safe: the spec gives
  this block no part in such an access, and a host that stays in the window never raises it (log 4). -/
  | outsideWindow
  deriving DecidableEq, Repr

/-- What the model refuses. -/
inductive Refusal where
  /-- Raised only by an arm of `exec` whose instruction has no meaning yet: there is none. Safe: the model says
  nothing of it. -/
  | notModelled (mnemonic : String)
  deriving DecidableEq, Repr

/-- The state of one block (R61), with the model's own `schedule`, `response`, `freeCount`, `params` and the
lines that R280 and R286 imply. -/
structure State where
  /-- SL and SR, keyed by byte offset of the host window (R54, 20_memory.md R74). -/
  samples   : Memory
  /-- The delay memory B: word i at bytes 4i to 4i + 3 (R54, 20_memory.md R76). -/
  delay     : Memory
  /-- STATUS.BUSY (R32). -/
  busy      : Bool
  /-- STATUS.DONE (R33). -/
  done      : Bool
  /-- STATUS.READY (R34). -/
  ready     : Bool
  /-- STATUS.ERR (R35). -/
  err       : Bool
  /-- STATUS.ERRCODE (R36). -/
  errcode   : ErrCode
  /-- CTRL.IRQ_EN (R38). -/
  irqEn     : Bool
  /-- ARG (R39). -/
  arg       : Word
  /-- RATE, an f32 (R41). -/
  rate      : Word
  /-- WET, an f32 (R42). -/
  wet       : Word
  /-- DRY, an f32 (R43). -/
  dry       : Word
  /-- MASTER, an f32 (R44). -/
  master    : Word
  /-- PRESET, 0 to 9 (R45). -/
  preset    : Fin 10
  /-- CRUSH, 0 to 3 (R46). -/
  crush     : Fin 4
  /-- CHANNELS.MONO (R47). -/
  mono      : Bool
  /-- BUFLEN (R48). -/
  buflen    : Word
  /-- CURSOR (R49). -/
  cursor    : Word
  /-- DERIVED (R52). -/
  derived   : Derived
  /-- PENDING (R53). -/
  pending   : Pending
  /-- SL or SR was written while BUSY, and the command has not completed (70_reset_and_hazards.md R286). -/
  hazard    : Bool
  /-- The reset input is asserted (70_reset_and_hazards.md R280). -/
  resetLine : Bool
  /-- The inputs still to come, the next first (log 1). -/
  schedule  : List Event
  /-- The answer to the last host access (log 3). -/
  response  : BusResponse
  /-- Index of the next free value (log 5). -/
  freeCount : Nat
  /-- The open parameters of 00_scope.md R7: configuration (R61), held here so that any table and any retune can be
  given; no step changes it (log 19). -/
  params    : Params
  deriving DecidableEq, Repr

/-- The sample memories with unspecified contents, over the whole window (R281; log 7). -/
def samplesAtReset : Memory := { cells := [], fills := [⟨Config.windowBytes, .free 0⟩] }

/-- The delay memory with unspecified contents (R281; log 7). -/
def delayAtReset : Memory := { cells := [], fills := [⟨4 * Config.bufCap, .free 1⟩] }

/-- The state after reset (70_reset_and_hazards.md R281). DERIVED and PENDING are log 8, the model's own fields
logs 1, 3, 5 and 19. -/
def State.reset : State where
  samples := samplesAtReset
  delay := delayAtReset
  busy := false
  done := false
  ready := false
  err := false
  errcode := .none
  irqEn := false
  arg := 0
  rate := 0
  wet := 0
  dry := 0x3F800000
  master := 0x3F800000
  preset := Config.initialPreset
  crush := 0
  mono := false
  buflen := 0
  cursor := 0
  derived := Derived.zero
  pending := ⟨0, 0⟩
  hazard := false
  resetLine := false
  schedule := []
  response := .none
  freeCount := 2
  params := Params.default

end Sys2Proof.Machine
end

