-- ==== Sys2Proof/Machine/Flags.lean ====
section
/-! DEFINITION. The words and lines computed from the status fields: STATUS (10_state.md R32 to R37), CTRL (R38) and
the interrupt output (60_exceptions.md R258). -/

namespace Sys2Proof.Machine

/-- A flag as a natural. -/
def bit (b : Bool) : Nat := if b then 1 else 0

/-- The code in STATUS bits [7:4] (60_exceptions.md R251). -/
def ErrCode.code : ErrCode → Nat
  | .none => 0
  | .badOpcode => 1
  | .busy => 2
  | .notInit => 3
  | .blockLen => 4
  | .badRate => 5
  | .bufCap => 6

/-- STATUS as the host reads it: BUSY bit 0, DONE 1, READY 2, ERR 3, ERRCODE [7:4], bits [31:8] zero (R32 to R37). -/
def State.statusWord (s : State) : Word :=
  BitVec.ofNat 32 (bit s.busy + 2 * bit s.done + 4 * bit s.ready + 8 * bit s.err + 16 * s.errcode.code)

/-- CTRL as the host reads it: IRQ_EN bit 0 (R38). -/
def State.ctrlWord (s : State) : Word := BitVec.ofNat 32 (bit s.irqEn)

/-- CHANNELS as the host reads it: MONO bit 0 (R47). -/
def State.channelsWord (s : State) : Word := BitVec.ofNat 32 (bit s.mono)

/-- The interrupt output (60_exceptions.md R258). -/
def State.irq (s : State) : Bool := s.irqEn && (s.done || s.err)

end Sys2Proof.Machine
end

