-- ==== Sys2Proof/Machine/Operands.lean ====
section
/-! DEFINITION. The operand forms of the commands: the f32 operand latched from ARG (30_encoding.md R102), the tap
addresses of the delay memory (42_reverb_kernel.md R181) and the addresses of samples (20_memory.md R74). -/

namespace Sys2Proof.Machine

/-- The f32 operand of INIT and the gain setters, `PENDING.ARG`, unconverted (R102). -/
def State.operandArg (s : State) : Word := s.pending.arg

/-- `(offset + CURSOR - extra) & (BUFLEN - 1)`, formed as a mathematical integer; since BUFLEN is a power of two the
mask is the remainder (20_memory.md R77). -/
def tapIndex (len cur offset extra : Nat) : Nat := (((offset : Int) + cur - extra) % (len : Int)).toNat

/-- `A(o)`, the tap at the current position (R181). -/
def State.tapA (s : State) (o : Word) : Nat := tapIndex s.buflen.toNat s.cursor.toNat o.toNat 0

/-- `A1(o)`, one sample behind (R181). -/
def State.tapA1 (s : State) (o : Word) : Nat := tapIndex s.buflen.toNat s.cursor.toNat o.toNat 1

/-- `Ad(o, d)`, the all-pass delayed read (R181). -/
def State.tapAd (s : State) (o d : Word) : Nat :=
  tapIndex s.buflen.toNat s.cursor.toNat o.toNat (d.toNat + Config.apfLag)

/-- The two channels. -/
inductive Channel where
  | left
  | right
  deriving DecidableEq, Repr

/-- The window offset of a channel's sample memory (R70, R74). -/
def Channel.base : Channel → Nat
  | .left => Config.slBase
  | .right => Config.srBase

/-- The window offset of sample `n` of a channel (R74). -/
def sampleOffset (c : Channel) (n : Nat) : Nat := c.base + 4 * n

end Sys2Proof.Machine
end

