-- ==== Sys2Proof/Machine/Ops.lean ====
section
/-! DEFINITION. The named operations over memories and registers: words of B, SL and SR; accepting a command
(60_exceptions.md R252); ending one normally or with an error (R253, R254); what a host write under BUSY leaves
behind (70_reset_and_hazards.md R286); reset (R280). The block has no traps (60_exceptions.md R256): ending a command
with an error is its one exception, and there is no return from it. -/

namespace Sys2Proof.Machine

/-! ### Memory words -/

/-- `B[i]` (20_memory.md R76). -/
def State.delayWord (s : State) (i : Nat) : Word := s.delay.word (4 * i)

/-- `B[i] <- v` (20_memory.md R76). -/
def State.setDelayWord (s : State) (i : Nat) (v : Word) : State := { s with delay := s.delay.setWord (4 * i) v }

/-- `SL[n]` or `SR[n]` (20_memory.md R74). -/
def State.sample (s : State) (c : Channel) (n : Nat) : Word := s.samples.word (sampleOffset c n)

/-- `SL[n] <- v` or `SR[n] <- v` (20_memory.md R74). -/
def State.setSample (s : State) (c : Channel) (n : Nat) (v : Word) : State :=
  { s with samples := s.samples.setWord (sampleOffset c n) v }

/-- `x[n] = S[n]` for `n < N` (44_process.md R232). -/
def State.readBlock (s : State) (c : Channel) (n : Nat) : List Word := (List.range n).map (s.sample c)

/-- `S[k + j] <- y[j]` for the words of `ys` (44_process.md R232). -/
def State.writeBlock (s : State) (c : Channel) (k : Nat) : List Word → State
  | [] => s
  | y :: ys => (s.setSample c k y).writeBlock c (k + 1) ys

/-- "Zero the buffer": `B[i] <- +0.0` for `i < BUFLEN` (20_memory.md R78). -/
def State.zeroDelay (s : State) : State := { s with delay := s.delay.fillBelow (4 * s.buflen.toNat) .zero }

/-! ### The life of a command -/

/-- Accepting a command word: PENDING latches it and ARG, BUSY is set (60_exceptions.md R252). -/
def State.acceptWord (s : State) (w : Word) : State := { s with pending := ⟨w, s.arg⟩, busy := true }

/-- A command word dropped because BUSY is set (60_exceptions.md R252). -/
def State.dropWord (s : State) : State := { s with err := true, errcode := .busy }

/-- `complete()` (60_exceptions.md R253). -/
def State.complete (s : State) : State := { s with busy := false, done := true }

/-- `raise Error(code)` (60_exceptions.md R254). -/
def State.raiseError (s : State) (c : ErrCode) : State :=
  { s with err := true, errcode := c, done := true, busy := false }

/-! ### Unspecified contents -/

/-- Every word of SL, SR and B[0..BUFLEN-1] takes an unspecified value (70_reset_and_hazards.md R286; log 10). -/
def State.scramble (s : State) : State :=
  { s with
    samples := s.samples.fillBelow Config.windowBytes (.free s.freeCount)
    delay := s.delay.fillBelow (4 * s.buflen.toNat) (.free (s.freeCount + 1))
    freeCount := s.freeCount + 2
    hazard := false }

/-- What remains to be done when a command has ended: if SL or SR was written while it was BUSY, the memories are
unspecified now (70_reset_and_hazards.md R286). -/
def State.settle (s : State) : State := if s.hazard then s.scramble else s

/-! ### Reset -/

/-- Every word of SL, SR and B takes an unspecified value, as R281, R283 and I5 say of the state after reset
(70_reset_and_hazards.md, 93_implementation_defined.md). -/
def State.forget (s : State) : State :=
  { s with
    samples := s.samples.fillBelow Config.windowBytes (.free s.freeCount)
    delay := s.delay.fillBelow (4 * Config.bufCap) (.free (s.freeCount + 1))
    freeCount := s.freeCount + 2 }

/-- Every register at its reset value (70_reset_and_hazards.md R281); the parameters, the inputs and the model's
counters keep theirs, and the memories what they hold (`State.assertReset` says what that is). -/
def State.resetRegisters (s : State) : State :=
  { State.reset with
    samples := s.samples
    delay := s.delay
    resetLine := s.resetLine
    schedule := s.schedule
    response := s.response
    freeCount := s.freeCount
    params := s.params }

/-- The reset that abandons a command: the registers take their reset values, and SL, SR and B hold what they held
(R280), but for a host write under BUSY (R286; log 10). -/
def State.abandon (s : State) : State := { s.settle.resetRegisters with resetLine := true }

/-- The reset input is asserted before the step of a command in execution. A reset that arrives while BUSY = 1 abandons
the command; one that arrives while BUSY = 0 leaves SL, SR and B unspecified (R281, R283; log 11). Asserting an asserted
line is nothing. -/
def State.assertReset (s : State) : State :=
  if s.resetLine then s
  else if s.busy then s.abandon
  else { s.forget.resetRegisters with resetLine := true }

/-- The reset input is released: the state is that of R281 (R280). Releasing a line that is not asserted is
nothing. -/
def State.releaseReset (s : State) : State :=
  if s.resetLine then { s.resetRegisters with resetLine := false } else s

/-! ### Outcomes -/

/-- Does `f` to a next state; a fault or a refusal stays. -/
def mapNext (f : State → State) :
    Host.Outcome State Fault Refusal → Host.Outcome State Fault Refusal
  | .next s => .next (f s)
  | .fault r => .fault r
  | .refused r => .refused r

end Sys2Proof.Machine
end

