-- ==== Sys2Proof/Machine/Bus.lean ====
section
/-! DEFINITION. The host's accesses to the window (20_memory.md R70 to R83, 10_state.md R30 to R51,
70_reset_and_hazards.md R280, R286). -/

namespace Sys2Proof.Machine

/-- The sixteen registers, in the order of their offsets (10_state.md R30). -/
inductive Reg where
  | id | status | ctrl | arg | cmd | rate | wet | dry | master | preset | crush | channels | buflen | cursor
  | blockmax | bufcap
  deriving DecidableEq, Repr

/-- The offset of a register (R30). -/
def Reg.offset : Reg → Nat
  | .id => 0x00
  | .status => 0x04
  | .ctrl => 0x08
  | .arg => 0x0C
  | .cmd => 0x10
  | .rate => 0x14
  | .wet => 0x18
  | .dry => 0x1C
  | .master => 0x20
  | .preset => 0x24
  | .crush => 0x28
  | .channels => 0x2C
  | .buflen => 0x30
  | .cursor => 0x34
  | .blockmax => 0x38
  | .bufcap => 0x3C

/-- All registers, in the order of R30. -/
def Reg.all : List Reg :=
  [.id, .status, .ctrl, .arg, .cmd, .rate, .wet, .dry, .master, .preset, .crush, .channels, .buflen, .cursor,
    .blockmax, .bufcap]

/-- RATE to CURSOR, which the host must not read while BUSY (20_memory.md R83). -/
def Reg.closedWhileBusy : Reg → Bool
  | .id => false
  | .status => false
  | .ctrl => false
  | .arg => false
  | .cmd => false
  | .rate => true
  | .wet => true
  | .dry => true
  | .master => true
  | .preset => true
  | .crush => true
  | .channels => true
  | .buflen => true
  | .cursor => true
  | .blockmax => false
  | .bufcap => false

/-- What an aligned offset of the window addresses (20_memory.md R70, R74). -/
inductive Target where
  | reg (r : Reg)
  | sample (c : Channel) (n : Nat)
  | unmapped
  deriving DecidableEq, Repr

/-- The window's map (R70, R74); sample words at and above BLOCK_MAX are as unmapped ones. -/
def target (off : Nat) : Target :=
  match Reg.all.find? (fun r => r.offset == off) with
  | some r => .reg r
  | none =>
    if Config.slBase ≤ off ∧ off < Config.slBase + 4 * Config.blockMax then .sample .left ((off - Config.slBase) / 4)
    else if Config.srBase ≤ off ∧ off < Config.srBase + 4 * Config.blockMax then
      .sample .right ((off - Config.srBase) / 4)
    else .unmapped

/-- The word a register reads as, with no side effect (R30 to R51, R80). -/
def State.regWord (s : State) : Reg → Word
  | .id => Config.idValue
  | .status => s.statusWord
  | .ctrl => s.ctrlWord
  | .arg => s.arg
  | .cmd => 0
  | .rate => s.rate
  | .wet => s.wet
  | .dry => s.dry
  | .master => s.master
  | .preset => BitVec.ofNat 32 s.preset.val
  | .crush => BitVec.ofNat 32 s.crush.val
  | .channels => s.channelsWord
  | .buflen => s.buflen
  | .cursor => s.cursor
  | .blockmax => BitVec.ofNat 32 Config.blockMax
  | .bufcap => BitVec.ofNat 32 Config.maxBufLog2

/-- A read answered with a word. -/
def State.answer (s : State) (v : Word) : State := { s with response := .data v }

/-- A read answered with an unspecified word (R280, R286; log 5). -/
def State.answerFree (s : State) : State :=
  { s with response := .data (Config.freeWord s.freeCount), freeCount := s.freeCount + 1 }

/-- `MemRead(off, 4)` of an aligned offset (20_memory.md R71, R72, R83; 70_reset_and_hazards.md R286). -/
def State.busRead (s : State) (off : Nat) : State :=
  match target off with
  | .reg r => if s.busy && r.closedWhileBusy then s.answerFree else s.answer (s.regWord r)
  | .sample c n => if s.busy then s.answerFree else s.answer (s.sample c n)
  | .unmapped => s.answer 0

/-- A write to STATUS: bit 1 clears DONE, bit 3 clears ERR and ERRCODE (10_state.md R37). -/
def State.writeStatus (s : State) (v : Word) : State :=
  { s with
    done := s.done && !v.getLsbD 1
    err := s.err && !v.getLsbD 3
    errcode := if v.getLsbD 3 then .none else s.errcode }

/-- A write to CMD: dropped and reported while BUSY, else accepted (60_exceptions.md R252). -/
def State.writeCmd (s : State) (w : Word) : State := if s.busy then s.dropWord else s.acceptWord w

/-- The write effect of a register; every other register is RO and ignores it (10_state.md R30, 20_memory.md R72). -/
def State.writeReg (s : State) (v : Word) : Reg → State
  | .id => s
  | .status => s.writeStatus v
  | .ctrl => { s with irqEn := v.getLsbD 0 }
  | .arg => { s with arg := v }
  | .cmd => s.writeCmd v
  | .rate => s
  | .wet => s
  | .dry => s
  | .master => s
  | .preset => s
  | .crush => s
  | .channels => s
  | .buflen => s
  | .cursor => s
  | .blockmax => s
  | .bufcap => s

/-- `MemWrite(off, 4, v)` of an aligned offset (20_memory.md R71, R72; 70_reset_and_hazards.md R286). -/
def State.busWrite (s : State) (off : Nat) (v : Word) : State :=
  match target off with
  | .reg r => s.writeReg v r
  | .sample c n => if s.busy then { s with hazard := true } else s.setSample c n v
  | .unmapped => s

/-- A 32-bit access at an aligned offset is the one kind the block accepts (R73). -/
def accepted (size off : Nat) : Bool := size == 4 && off % 4 == 0

/-- A host access (R70 to R73): outside the window it is no access to this block; while reset is asserted a read
returns an unspecified word and a write has no effect (R280); a wrong width or alignment gets a bus error (R73). -/
def hostAccess (a : BusAccess) (s : State) : Host.Outcome State Fault Refusal :=
  match a with
  | .read size off =>
    if Config.windowBytes ≤ off then .fault .outsideWindow
    else if s.resetLine then .next s.answerFree
    else if accepted size off then .next (s.busRead off)
    else .next { s with response := .busError }
  | .write size off v =>
    if Config.windowBytes ≤ off then .fault .outsideWindow
    else if s.resetLine then .next { s with response := .written }
    else if accepted size off then .next { s.busWrite off v with response := .written }
    else .next { s with response := .busError }

end Sys2Proof.Machine
end

