-- ==== Sys2Proof/Machine/Float.lean ====
section
/-! DEFINITION. IEEE 754 binary32 and binary64 as 00_scope.md R10 to R12 use them: every operation rounds once, to
nearest with ties to even, subnormals are kept, nothing is fused, and a NaN result is NAN_VALUE, a free value
(log 6). A finite value is held exactly, as a natural multiple of the format's smallest subnormal, so rounding is
one function of an exact ratio. The operations on words are irreducible, so that comparing two states never computes
one; their equations, and the kernel's evaluation, are as ever. -/

namespace Sys2Proof.Machine

/-- A binary interchange format: its exponent and fraction widths. -/
structure FloatFormat where
  expBits  : Nat
  fracBits : Nat
  deriving DecidableEq, Repr

/-- `f32` (R10): bit 31 sign, bits [30:23] exponent, bits [22:0] fraction (20_memory.md R75). -/
def binary32 : FloatFormat := ⟨8, 23⟩

/-- `f64` (R10). -/
def binary64 : FloatFormat := ⟨11, 52⟩

/-- What a pattern stands for. `mag` counts units of the smallest subnormal of the format. -/
inductive FloatVal where
  | nan
  | inf (neg : Bool)
  | fin (neg : Bool) (mag : Nat)
  deriving DecidableEq, Repr

namespace FloatFormat

/-- The smallest subnormal is 2^(-unitLog): 2^-149 for binary32, 2^-1074 for binary64. -/
def unitLog (f : FloatFormat) : Nat := 2 ^ (f.expBits - 1) + f.fracBits - 2

/-- The weight of the sign bit. -/
def signWeight (f : FloatFormat) : Nat := 2 ^ (f.expBits + f.fracBits)

/-- The pattern of +infinity. -/
def infPattern (f : FloatFormat) : Nat := (2 ^ f.expBits - 1) * 2 ^ f.fracBits

/-- Units of a finite pattern without its sign: a subnormal is its fraction, a normal number has the hidden bit. -/
def magOf (f : FloatFormat) (p : Nat) : Nat :=
  let e := p / 2 ^ f.fracBits
  if e = 0 then p else (2 ^ f.fracBits + p % 2 ^ f.fracBits) * 2 ^ (e - 1)

/-- Reads a pattern. -/
def unpack (f : FloatFormat) (x : Nat) : FloatVal :=
  let neg := x / f.signWeight % 2 == 1
  let p := x % f.signWeight
  if p = f.infPattern then .inf neg
  else if f.infPattern < p then .nan
  else .fin neg (f.magOf p)

/-- A pattern with its sign. -/
def withSign (f : FloatFormat) (neg : Bool) (p : Nat) : Nat := (if neg then f.signWeight else 0) + p

/-- The NaN that NAN_VALUE gives the operation named by the tag: any sign, any nonzero fraction (R7, D33; log 6). -/
def nanPattern (f : FloatFormat) (t : NanTag) : Nat :=
  f.withSign (Config.nanSign t) (f.infPattern + 1 + Config.nanPayload t % (2 ^ f.fracBits - 1))

/-- The integer nearest to `num / den`, ties to even. -/
def nearestEven (num den : Nat) : Nat :=
  let q := num / den
  let r := num % den
  if den < 2 * r ∨ (2 * r = den ∧ q % 2 = 1) then q + 1 else q

/-- The pattern of the value `num / den` units, rounded to nearest, ties to even (R11). `sh` is the exponent of the
last place kept; a carry out of the fraction moves into the exponent field by itself, and a result past the
largest finite number is an infinity. -/
def roundRatio (f : FloatFormat) (neg : Bool) (num den : Nat) : Nat :=
  let sh := Nat.log2 (num / den) - f.fracBits
  let p := sh * 2 ^ f.fracBits + nearestEven num (den * 2 ^ sh)
  f.withSign neg (min p f.infPattern)

/-- The exact value of a finite number in units, with its sign. -/
def signedMag (neg : Bool) (mag : Nat) : Int := if neg then -(mag : Int) else mag

/-- Addition. An exact zero sum is -0 only when both operands are negative. -/
def add (f : FloatFormat) (t : NanTag) (x y : FloatVal) : Nat :=
  match x, y with
  | .nan, _ => f.nanPattern t
  | _, .nan => f.nanPattern t
  | .inf a, .inf b => if a = b then f.withSign a f.infPattern else f.nanPattern t
  | .inf a, .fin _ _ => f.withSign a f.infPattern
  | .fin _ _, .inf b => f.withSign b f.infPattern
  | .fin a m, .fin b n =>
    let s := signedMag a m + signedMag b n
    if s = 0 then f.withSign (a && b) 0 else f.roundRatio (decide (s < 0)) s.natAbs 1

/-- The operand with its sign turned. -/
def neg : FloatVal → FloatVal
  | .nan => .nan
  | .inf a => .inf (!a)
  | .fin a m => .fin (!a) m

/-- Subtraction is addition of the negated operand. -/
def sub (f : FloatFormat) (t : NanTag) (x y : FloatVal) : Nat := f.add t x (neg y)

/-- Multiplication. -/
def mul (f : FloatFormat) (t : NanTag) (x y : FloatVal) : Nat :=
  match x, y with
  | .nan, _ => f.nanPattern t
  | _, .nan => f.nanPattern t
  | .inf a, .inf b => f.withSign (a ^^ b) f.infPattern
  | .inf a, .fin b n => if n = 0 then f.nanPattern t else f.withSign (a ^^ b) f.infPattern
  | .fin a m, .inf b => if m = 0 then f.nanPattern t else f.withSign (a ^^ b) f.infPattern
  | .fin a m, .fin b n => f.roundRatio (a ^^ b) (m * n) (2 ^ f.unitLog)

/-- Division. -/
def div (f : FloatFormat) (t : NanTag) (x y : FloatVal) : Nat :=
  match x, y with
  | .nan, _ => f.nanPattern t
  | _, .nan => f.nanPattern t
  | .inf _, .inf _ => f.nanPattern t
  | .inf a, .fin b _ => f.withSign (a ^^ b) f.infPattern
  | .fin a _, .inf b => f.withSign (a ^^ b) 0
  | .fin a m, .fin b n =>
    if n = 0 then (if m = 0 then f.nanPattern t else f.withSign (a ^^ b) f.infPattern)
    else f.roundRatio (a ^^ b) (m * 2 ^ f.unitLog) n

/-- The value of a number of format `f` rounded into format `g` (R11: `to_f32`, `to_f64`). -/
def convert (f g : FloatFormat) (t : NanTag) (x : FloatVal) : Nat :=
  match x with
  | .nan => g.nanPattern t
  | .inf a => g.withSign a g.infPattern
  | .fin a m => g.roundRatio a (m * 2 ^ g.unitLog) (2 ^ f.unitLog)

/-- The integer `z` in format `f`. -/
def ofInt (f : FloatFormat) (z : Int) : Nat := f.roundRatio (decide (z < 0)) (z.natAbs * 2 ^ f.unitLog) 1

/-- `trunc` (R12): toward zero. Infinities and NaNs, which no rule rounds (R130), give 0 (log 14). -/
def trunc (f : FloatFormat) : FloatVal → Int
  | .fin a m => signedMag a (m / 2 ^ f.unitLog)
  | .inf _ => 0
  | .nan => 0

/-- `ceil` (R12): up. Infinities and NaNs, which no rule rounds (R130), give 0 (log 14). -/
def ceil (f : FloatFormat) : FloatVal → Int
  | .fin a m => if a then -((m / 2 ^ f.unitLog : Nat) : Int) else (((m + 2 ^ f.unitLog - 1) / 2 ^ f.unitLog : Nat) : Int)
  | .inf _ => 0
  | .nan => 0

end FloatFormat

/-! ### binary32 on words -/

/-- The value of an `f32` word. -/
def f32Val (x : Word) : FloatVal := binary32.unpack x.toNat

/-- `x + y` in binary32 (R11). -/
@[irreducible] def f32Add (t : NanTag) (x y : Word) : Word := BitVec.ofNat 32 (binary32.add t (f32Val x) (f32Val y))

/-- `x - y` in binary32 (R11). -/
@[irreducible] def f32Sub (t : NanTag) (x y : Word) : Word := BitVec.ofNat 32 (binary32.sub t (f32Val x) (f32Val y))

/-- `x * y` in binary32 (R11). -/
@[irreducible] def f32Mul (t : NanTag) (x y : Word) : Word := BitVec.ofNat 32 (binary32.mul t (f32Val x) (f32Val y))

/-- `x / y` in binary32 (R11). -/
@[irreducible] def f32Div (t : NanTag) (x y : Word) : Word := BitVec.ofNat 32 (binary32.div t (f32Val x) (f32Val y))

/-- The natural `n` as an `f32`. -/
@[irreducible] def f32OfNat (n : Nat) : Word := BitVec.ofNat 32 (binary32.ofInt n)

/-- "r is finite and r > 0.0" (41_control_commands.md R151). -/
def f32FinitePositive (x : Word) : Bool :=
  match f32Val x with
  | .fin false m => m != 0
  | .fin true _ => false
  | .inf _ => false
  | .nan => false

/-- `round_half_away` (R12): the nearest integer, halves away from zero, the sign of a zero result kept,
infinities and NaNs unchanged. -/
@[irreducible] def f32RoundHalfAway (x : Word) : Word :=
  match f32Val x with
  | .fin a m =>
    let k := (2 * m + 2 ^ binary32.unitLog) / (2 * 2 ^ binary32.unitLog)
    BitVec.ofNat 32 (binary32.roundRatio a (k * 2 ^ binary32.unitLog) 1)
  | .inf _ => x
  | .nan => x

/-! ### binary64, for the derivation of 40_preset_load.md -/

/-- The value of an `f64` pattern. -/
@[irreducible] def f64Val (x : DWord) : FloatVal := binary64.unpack x.toNat

/-- `x + y` in binary64 (R11). -/
@[irreducible] def f64Add (t : NanTag) (x y : DWord) : DWord := BitVec.ofNat 64 (binary64.add t (f64Val x) (f64Val y))

/-- `x - y` in binary64 (R11). -/
@[irreducible] def f64Sub (t : NanTag) (x y : DWord) : DWord := BitVec.ofNat 64 (binary64.sub t (f64Val x) (f64Val y))

/-- `x * y` in binary64 (R11). -/
@[irreducible] def f64Mul (t : NanTag) (x y : DWord) : DWord := BitVec.ofNat 64 (binary64.mul t (f64Val x) (f64Val y))

/-- `x / y` in binary64 (R11). -/
@[irreducible] def f64Div (t : NanTag) (x y : DWord) : DWord := BitVec.ofNat 64 (binary64.div t (f64Val x) (f64Val y))

/-- The integer `z` as an `f64`. -/
@[irreducible] def f64OfInt (z : Int) : DWord := BitVec.ofNat 64 (binary64.ofInt z)

/-- `to_f64` (R11): widens exactly. -/
@[irreducible] def toF64 (t : NanTag) (x : Word) : DWord := BitVec.ofNat 64 (binary32.convert binary64 t (f32Val x))

/-- `to_f32` (R11): rounds to nearest even. -/
@[irreducible] def toF32 (t : NanTag) (x : DWord) : Word := BitVec.ofNat 32 (binary64.convert binary32 t (f64Val x))

/-- `trunc` of an `f64` (R12). -/
@[irreducible] def f64Trunc (x : DWord) : Int := binary64.trunc (f64Val x)

/-- `ceil` of an `f64` (R12). -/
@[irreducible] def f64Ceil (x : DWord) : Int := binary64.ceil (f64Val x)

/-- `nextpow2(n)` (R12): the least power of two that is at least `n`, for `n ≥ 1`. -/
@[irreducible] def nextPow2 (n : Nat) : Nat := if n ≤ 1 then 1 else 2 ^ (Nat.log2 (n - 1) + 1)

end Sys2Proof.Machine
end

