-- ==== Sys2Proof/Machine/Crush.lean ====
section
/-! DEFINITION. The crush stage and SET_CRUSH (43_crush.md). Blocks are lists of f32 words; arithmetic is binary32. -/

namespace Sys2Proof.Machine

/-- SET_CRUSH (R210): a level above 3 is stored as 3. -/
def execSetCrush (imm : Nat) (s : State) : Host.Outcome State Fault Refusal :=
  .next { s with crush := Fin.ofNat 4 (min imm Config.crushMax) }.complete

/-- The even-indexed samples `d[i] = x[2*i]` for `i < N div 2` (R212). -/
def decimate : List Word → List Word
  | x :: _ :: rest => x :: decimate rest
  | [_] => []
  | [] => []

/-- The binary32 fraction of output `n`: 0.0 at even, 0.5 at odd positions (R212). -/
def interpFrac (n : Nat) : Word := if n % 2 = 0 then 0x00000000 else 0x3F000000

/-- Output `n` interpolated between decimated samples: `a + (frac * (b - a))`, the index wrapping modulo the
decimated length (R212). The tags of the block's operations start at site `5 * n` of `epoch`. -/
def interpolate (epoch : Nat) (d : List Word) (n : Nat) : Word :=
  let t : NanTag := ⟨epoch, 5 * n⟩
  let a := d.getD (n / 2 % d.length) 0
  let b := d.getD ((n / 2 + 1) % d.length) 0
  f32Add (t.at 2) a (f32Mul (t.at 1) (interpFrac n) (f32Sub t b a))

/-- Decimation and reconstruction of one channel block (R212). -/
def downsample (epoch : Nat) (x : List Word) : List Word :=
  let d := decimate x
  if d.length = 0 then x else (List.range x.length).map (interpolate epoch d)

/-- R213: `round_half_away(v * s) / s` with `s = 2^(b-1)`. -/
def quantize (t : NanTag) (v : Word) (b : Nat) : Word :=
  let s := f32OfNat (2 ^ (b - 1))
  f32Div (t.at 1) (f32RoundHalfAway (f32Mul t v s)) s

/-- Every sample of a block quantized, the tags at sites `5 * n + 3` and `5 * n + 4` of `epoch` (R215). -/
def quantizeBlock (epoch b : Nat) (y : List Word) : List Word :=
  y.zipIdx.map (fun v => quantize ⟨epoch, 5 * v.2 + 3⟩ v.1 b)

/-- The crush function of one channel block (R211, R215). -/
def crushBlock (epoch : Nat) (x : List Word) (level : Fin 4) : List Word :=
  match level with
  | 0 => x
  | 1 => downsample epoch x
  | 2 => quantizeBlock epoch Config.depthL2 (downsample epoch x)
  | 3 => quantizeBlock epoch Config.depthL3 (downsample epoch x)

end Sys2Proof.Machine
end

