-- ==== Sys2Proof/Machine/Kernel.lean ====
section
/-! DEFINITION. The per-sample reverb kernel (42_reverb_kernel.md). Statements run in the order of R188; each read of
B sees every earlier write. Each operation of one sample has a tag of its own under the epoch `freeCount`, which
advances after the sample (log 6). -/

namespace Sys2Proof.Machine

/-- R183: `IIR(in, w, prev) = (((in + (w * g_vWALL)) - prev) * g_vIIR) + prev`. -/
def reflectionFilter (t : NanTag) (gWall gIIR inp w prev : Word) : Word :=
  f32Add (t.at 4)
    (f32Mul (t.at 3) (f32Sub (t.at 2) (f32Add (t.at 1) inp (f32Mul t w gWall)) prev) gIIR) prev

/-- R184, R185: `B[A(tap)] <- IIR(in, B[A(wall)], B[A1(tap)])`. -/
def State.reflect (s : State) (t : NanTag) (inp wall tap : Word) : State :=
  s.setDelayWord (s.tapA tap)
    (reflectionFilter t s.derived.g_vWALL s.derived.g_vIIR inp (s.delayWord (s.tapA wall))
      (s.delayWord (s.tapA1 tap)))

/-- R186: the four comb reads of a channel, summed left to right. -/
def State.combSum (s : State) (t : NanTag) (o1 o2 o3 o4 : Word) : Word :=
  f32Add (t.at 6)
    (f32Add (t.at 5)
      (f32Add (t.at 4) (f32Mul t s.derived.g_vCOMB1 (s.delayWord (s.tapA o1)))
        (f32Mul (t.at 1) s.derived.g_vCOMB2 (s.delayWord (s.tapA o2))))
      (f32Mul (t.at 2) s.derived.g_vCOMB3 (s.delayWord (s.tapA o3))))
    (f32Mul (t.at 3) s.derived.g_vCOMB4 (s.delayWord (s.tapA o4)))

/-- R187: `v = x - (g * t)`, the word an all-pass stage stores, from the delayed read `r`. -/
def allPassStored (t : NanTag) (x g r : Word) : Word := f32Sub (t.at 1) x (f32Mul t g r)

/-- R187: `(v * g) + t`, the output of an all-pass stage, from the stored word `v` and the delayed read `r`. -/
def allPassOut (t : NanTag) (v g r : Word) : Word := f32Add (t.at 3) (f32Mul (t.at 2) v g) r

/-- R187: one all-pass stage: the state with `B[A(mo)] <- v`, and the stage's output. -/
def State.allPass (s : State) (t : NanTag) (x mo d g : Word) : State × Word :=
  let r := s.delayWord (s.tapAd mo d)
  let v := allPassStored t x g r
  (s.setDelayWord (s.tapA mo) v, allPassOut t v g r)

/-- R190: `CURSOR <- (CURSOR + 1) & (BUFLEN - 1)`. -/
def State.advanceCursor (s : State) : State :=
  { s with cursor := BitVec.ofNat 32 (tapIndex s.buflen.toNat s.cursor.toNat 1 0) }

/-- R189: `((wet * WET) + (x * DRY)) * MASTER`. -/
def State.mix (s : State) (t : NanTag) (out x : Word) : Word :=
  f32Mul (t.at 3) (f32Add (t.at 2) (f32Mul t out s.wet) (f32Mul (t.at 1) x s.dry)) s.master

/-- The next sample's operations take fresh free values (log 5, log 6). -/
def State.nextEpoch (s : State) : State := { s with freeCount := s.freeCount + 1 }

/-- Steps 2 and 3: the four reflection taps, left first (R184, R185, R188). -/
def State.reflections (s : State) (e : Nat) (lin rin : Word) : State :=
  let s := s.reflect ⟨e, 2⟩ lin s.derived.S_dLSAME s.derived.S_mLSAME
  let s := s.reflect ⟨e, 7⟩ rin s.derived.S_dRSAME s.derived.S_mRSAME
  let s := s.reflect ⟨e, 12⟩ lin s.derived.S_dRDIFF s.derived.S_mLDIFF
  s.reflect ⟨e, 17⟩ rin s.derived.S_dLDIFF s.derived.S_mRDIFF

/-- Step 4, the left channel (R186). -/
def State.combLeft (s : State) (e : Nat) : Word :=
  s.combSum ⟨e, 22⟩ s.derived.S_mLCOMB1 s.derived.S_mLCOMB2 s.derived.S_mLCOMB3 s.derived.S_mLCOMB4

/-- Step 4, the right channel (R186). -/
def State.combRight (s : State) (e : Nat) : Word :=
  s.combSum ⟨e, 29⟩ s.derived.S_mRCOMB1 s.derived.S_mRCOMB2 s.derived.S_mRCOMB3 s.derived.S_mRCOMB4

/-- Step 5: two all-pass stages a channel, stage 1 of both before stage 2, left first (R187, R188). -/
def State.allPasses (s : State) (e : Nat) (lout rout : Word) : State × Word × Word :=
  let l1 := s.allPass ⟨e, 36⟩ lout s.derived.S_mLAPF1 s.derived.S_dAPF1 s.derived.g_vAPF1
  let s := l1.1
  let r1 := s.allPass ⟨e, 40⟩ rout s.derived.S_mRAPF1 s.derived.S_dAPF1 s.derived.g_vAPF1
  let s := r1.1
  let l2 := s.allPass ⟨e, 44⟩ l1.2 s.derived.S_mLAPF2 s.derived.S_dAPF2 s.derived.g_vAPF2
  let s := l2.1
  let r2 := s.allPass ⟨e, 48⟩ r1.2 s.derived.S_mRAPF2 s.derived.S_dAPF2 s.derived.g_vAPF2
  (r2.1, l2.2, r2.2)

/-- R188: one sample, in the order the block executes it: the state after it, and the output pair. -/
def State.kernel (s : State) (xL xR : Word) : State × Word × Word :=
  let e := s.freeCount
  let lin := f32Mul ⟨e, 0⟩ xL s.derived.g_vLIN
  let rin := f32Mul ⟨e, 1⟩ xR s.derived.g_vRIN
  let s := s.reflections e lin rin
  let out := s.allPasses e (s.combLeft e) (s.combRight e)
  let s := out.1.advanceCursor.nextEpoch
  (s, s.mix ⟨e, 52⟩ out.2.1 xL, s.mix ⟨e, 56⟩ out.2.2 xR)

/-- The kernel over a block, in increasing order: the state after it, and the output pairs (44_process.md R232). -/
def State.runKernel (s : State) : List (Word × Word) → State × List (Word × Word)
  | [] => (s, [])
  | x :: xs =>
    let k := s.kernel x.1 x.2
    let r := k.1.runKernel xs
    (r.1, k.2 :: r.2)

end Sys2Proof.Machine
end

