-- ==== Sys2Proof/Machine/Block.lean ====
section
/-! DEFINITION. SET_CHANNELS and PROCESS (44_process.md). -/

namespace Sys2Proof.Machine

/-- SET_CHANNELS (R230): a count of 1 selects mono, every other count stereo. -/
def execSetChannels (imm : Nat) (s : State) : Host.Outcome State Fault Refusal :=
  .next { s with mono := decide (imm = 1) }.complete

/-- The left kernel input: the crushed left block (R232). -/
def State.inputLeft (s : State) (n : Nat) : List Word := crushBlock s.freeCount (s.readBlock .left n) s.crush

/-- The right kernel input: in mono the crushed left block, else the crushed right block (R232, R233). -/
def State.inputRight (s : State) (n : Nat) : List Word :=
  if s.mono then s.inputLeft n else crushBlock (s.freeCount + 1) (s.readBlock .right n) s.crush

/-- The kernel's run over a block of `n` samples: the state after it, and the output pairs (R232). The crush stages
use two epochs of free values, the samples one each (log 6). -/
def State.runBlock (s : State) (n : Nat) : State × List (Word × Word) :=
  State.runKernel { s with freeCount := s.freeCount + 2 } ((s.inputLeft n).zip (s.inputRight n))

/-- The left output block (R232). -/
def State.outputLeft (s : State) (n : Nat) : List Word := (s.runBlock n).2.map Prod.fst

/-- The right output block: in mono a copy of the left one (R232, R233). -/
def State.outputRight (s : State) (n : Nat) : List Word :=
  if s.mono then s.outputLeft n else (s.runBlock n).2.map Prod.snd

/-- What a PROCESS that raises no error does (R232). -/
def State.processBlock (s : State) (n : Nat) : State :=
  ((s.runBlock n).1.writeBlock .left 0 (s.outputLeft n)).writeBlock .right 0 (s.outputRight n)

/-- PROCESS (R232). NOT_INIT is checked first (R255). -/
def execProcess (n : Nat) (s : State) : Host.Outcome State Fault Refusal :=
  if s.ready = false then .next (s.raiseError .notInit)
  else if Config.blockMax < n then .next (s.raiseError .blockLen)
  else .next (s.processBlock n).complete

end Sys2Proof.Machine
end

