-- ==== Sys2Proof/Machine/PresetLoad.lean ====
section
/-! DEFINITION. Deriving run-time values from a preset and a rate, and the load operation (40_preset_load.md). All
arithmetic is binary64, one operation for each operator of the rule, rounded to binary32 only where the rule says
so. No operation here has a NaN result at an accepted rate (log 14); the tags name the ones it would have. -/

namespace Sys2Proof.Machine

/-- Tag of the derivation's operation `k` (log 14). -/
def deriveTag (k : Nat) : NanTag := ⟨0, k⟩

/-- R130: the stretch factor `to_f64(rate) / 22050.0`. -/
def stretch (rate : Word) : DWord := f64Div (deriveTag 0) (toF64 (deriveTag 1) rate) (f64OfInt Config.nativeRate)

/-- R131: `req = ceil(49184.0 * st)`. -/
def requiredLength (st : DWord) : Nat := (f64Ceil (f64Mul (deriveTag 2) (f64OfInt Config.longest) st)).toNat

/-- R133: the buffer length a rate needs, `nextpow2(req)`. -/
@[irreducible] def bufferLength (rate : Word) : Nat := nextPow2 (requiredLength (stretch rate))

/-- R134: `S(f) = trunc(to_f64(4 * f) * st)`. -/
def scaleOffset (st : DWord) (f : Half) : Nat :=
  (f64Trunc (f64Mul (deriveTag 3) (f64OfInt ((Config.offsetScale * f.toNat : Nat) : Int)) st)).toNat

/-- R134: the scaled offset, stored as u32. -/
def offsetWord (st : DWord) (f : Half) : Word := BitVec.ofNat 32 (scaleOffset st f)

/-- R135: `G(f) = to_f32(to_f64(sext_16(f)) / 32768.0)`. -/
def gainWord (f : Half) : Word :=
  toF32 (deriveTag 4) (f64Div (deriveTag 5) (f64OfInt f.toInt) (f64OfInt Config.q15Div))

/-- R136: PI64. -/
def pi64 : DWord := 0x400921FB54442D18

/-- R136: TWO_PI = 2.0 * PI64. -/
def twoPi : DWord := f64Mul (deriveTag 6) (f64OfInt 2) pi64

/-- R136: the DEFAULT IIR_RETUNE, one binary64 operation for each operator, in the order written (log 12). -/
def iirRetune (alpha rate : Word) : Word :=
  let one := f64OfInt 1
  let a := toF64 (deriveTag 7) alpha
  let t1 := f64Sub (deriveTag 8) one a
  let t2 := f64Mul (deriveTag 9) twoPi t1
  let fc := f64Div (deriveTag 10) (f64Mul (deriveTag 11) (f64OfInt Config.nativeRate) a) t2
  let w := f64Div (deriveTag 12) (f64Mul (deriveTag 13) twoPi fc) (toF64 (deriveTag 14) rate)
  toF32 (deriveTag 15) (f64Div (deriveTag 16) w (f64Add (deriveTag 17) one w))

/-- IIR_RETUNE as the parameters give it: the default formula but at the points they list (R7, R136). -/
def Params.retune (ps : Params) (alpha rate : Word) : Word :=
  match ps.retunePoint alpha rate with
  | some v => v
  | none => iirRetune alpha rate

/-- R137: `derive(p, rate)` under the parameters `ps`. Only vIIR is retuned (R140). -/
@[irreducible] def derive (ps : Params) (p : Preset) (rate : Word) : Derived :=
  let st := stretch rate
  { S_dAPF1   := offsetWord st p.dAPF1
    S_dAPF2   := offsetWord st p.dAPF2
    g_vIIR    := ps.retune (gainWord p.vIIR) rate
    g_vCOMB1  := gainWord p.vCOMB1
    g_vCOMB2  := gainWord p.vCOMB2
    g_vCOMB3  := gainWord p.vCOMB3
    g_vCOMB4  := gainWord p.vCOMB4
    g_vWALL   := gainWord p.vWALL
    g_vAPF1   := gainWord p.vAPF1
    g_vAPF2   := gainWord p.vAPF2
    S_mLSAME  := offsetWord st p.mLSAME
    S_mRSAME  := offsetWord st p.mRSAME
    S_mLCOMB1 := offsetWord st p.mLCOMB1
    S_mRCOMB1 := offsetWord st p.mRCOMB1
    S_mLCOMB2 := offsetWord st p.mLCOMB2
    S_mRCOMB2 := offsetWord st p.mRCOMB2
    S_dLSAME  := offsetWord st p.dLSAME
    S_dRSAME  := offsetWord st p.dRSAME
    S_mLDIFF  := offsetWord st p.mLDIFF
    S_mRDIFF  := offsetWord st p.mRDIFF
    S_mLCOMB3 := offsetWord st p.mLCOMB3
    S_mRCOMB3 := offsetWord st p.mRCOMB3
    S_mLCOMB4 := offsetWord st p.mLCOMB4
    S_mRCOMB4 := offsetWord st p.mRCOMB4
    S_dLDIFF  := offsetWord st p.dLDIFF
    S_dRDIFF  := offsetWord st p.dRDIFF
    S_mLAPF1  := offsetWord st p.mLAPF1
    S_mRAPF1  := offsetWord st p.mRAPF1
    S_mLAPF2  := offsetWord st p.mLAPF2
    S_mRAPF2  := offsetWord st p.mRAPF2
    g_vLIN    := gainWord p.vLIN
    g_vRIN    := gainWord p.vRIN }

/-- R138: `loadPreset(i)`: DERIVED is derived at RATE, then the buffer is zeroed. -/
def State.loadPreset (s : State) (i : Fin 10) : State :=
  State.zeroDelay { s with derived := derive s.params (s.params.presetAt i) s.rate }

end Sys2Proof.Machine
end

