-- ==== Sys2Proof/Machine/Control.lean ====
section
/-! DEFINITION. The meanings of NOP, INIT, SET_PRESET, SET_WET, SET_DRY and SET_MASTER (41_control_commands.md). -/

namespace Sys2Proof.Machine

/-- NOP (R150). -/
def execNop (s : State) : Host.Outcome State Fault Refusal := .next s.complete

/-- What an accepted rate does: RATE, BUFLEN, CURSOR and READY, then the preset is loaded (R151). -/
def State.initEngine (s : State) (r : Word) : State :=
  State.loadPreset { s with rate := r, buflen := BitVec.ofNat 32 (bufferLength r), cursor := 0, ready := true } s.preset

/-- INIT (R151). -/
def execInit (s : State) : Host.Outcome State Fault Refusal :=
  let r := s.operandArg
  if f32FinitePositive r = false then .next (s.raiseError .badRate)
  else if Config.bufCap < bufferLength r then .next (s.raiseError .bufCap)
  else .next (s.initEngine r).complete

/-- What a switch to another preset does: PRESET, and when READY the load (R152). -/
def State.switchPreset (s : State) (i : Fin 10) : State :=
  if s.ready then State.loadPreset { s with preset := i } i else { s with preset := i }

/-- SET_PRESET (R152). -/
def execSetPreset (imm : Nat) (s : State) : Host.Outcome State Fault Refusal :=
  if h : imm < 10 then
    if imm = s.preset.val then .next s.complete else .next (s.switchPreset ⟨imm, h⟩).complete
  else .next s.complete

/-- SET_WET (R154). -/
def execSetWet (s : State) : Host.Outcome State Fault Refusal := .next { s with wet := s.operandArg }.complete

/-- SET_DRY (R155). -/
def execSetDry (s : State) : Host.Outcome State Fault Refusal := .next { s with dry := s.operandArg }.complete

/-- SET_MASTER (R156). -/
def execSetMaster (s : State) : Host.Outcome State Fault Refusal := .next { s with master := s.operandArg }.complete

end Sys2Proof.Machine
end

