-- ==== Sys2Proof/Machine/Dispatch.lean ====
section
/-! DEFINITION. The commands and their meanings, one arm each (60_exceptions.md R252). -/

namespace Sys2Proof.Machine

def exec (i : Instr) (s : State) : Host.Outcome State Fault Refusal :=
  match i with
  | .nop => Sys2Proof.Machine.execNop s
  | .init => Sys2Proof.Machine.execInit s
  | .setPreset imm => Sys2Proof.Machine.execSetPreset imm s
  | .setWet => Sys2Proof.Machine.execSetWet s
  | .setDry => Sys2Proof.Machine.execSetDry s
  | .setMaster => Sys2Proof.Machine.execSetMaster s
  | .setCrush imm => Sys2Proof.Machine.execSetCrush imm s
  | .setChannels imm => Sys2Proof.Machine.execSetChannels imm s
  | .process n => Sys2Proof.Machine.execProcess n s

end Sys2Proof.Machine
end

