-- ==== Sys2Proof/Machine/Engine.lean ====
section
/-! DEFINITION. The engine's step and the inputs (60_exceptions.md R252; 70_reset_and_hazards.md R280). -/

namespace Sys2Proof.Machine

/-- Executing a command word: one of the nine commands, or Error(BAD_OPCODE) (60_exceptions.md R252). -/
def execWord (w : Word) (s : State) : Host.Outcome State Fault Refusal :=
  match decode w with
  | .ok i => exec i s
  | .error (.reservedOpcode _) => .next (s.raiseError .badOpcode)

/-- The engine may step: a command is BUSY and reset is not asserted (60_exceptions.md R252,
70_reset_and_hazards.md R280). -/
def State.engineEnabled (s : State) : Bool := s.busy && !s.resetLine

/-- The engine's turn: it executes the pending command as one atomic step; with none it holds its state (R252,
R264). When the command has ended, the consequence of a host write under BUSY is settled (R286). -/
def engineStep (s : State) : Host.Outcome State Fault Refusal :=
  if s.engineEnabled then mapNext State.settle (execWord s.pending.cmd s) else .next s

/-- The reset input is asserted after the step of a command in execution, if there is one: SL, SR and B hold what the
command left there (70_reset_and_hazards.md R280). -/
def resetAfterStep (s : State) : Host.Outcome State Fault Refusal :=
  if s.engineEnabled then mapNext State.abandon (execWord s.pending.cmd s) else .next s.assertReset

/-- One input (log 1). -/
def applyEvent (e : Event) (s : State) : Host.Outcome State Fault Refusal :=
  match e with
  | .engine => engineStep s
  | .access a => hostAccess a s
  | .assertReset => .next s.assertReset
  | .assertResetAfterStep => resetAfterStep s
  | .releaseReset => .next s.releaseReset

/-- The machine's next move: the next input, or the engine's turn when none is left (log 1). -/
def advance (s : State) : Host.Outcome State Fault Refusal :=
  match s.schedule with
  | [] => engineStep s
  | e :: rest => applyEvent e { s with schedule := rest }

/-- The state in which the word `w` has just been accepted and the engine moves next (log 2). -/
def State.placeWord (s : State) (w : Word) : State :=
  { s.acceptWord w with resetLine := false, schedule := .engine :: s.schedule }

end Sys2Proof.Machine
end

