-- ==== Sys2Proof/Machine/Step.lean ====
section
/-! DEFINITION. The step function, and where it fetches a command from. -/

namespace Sys2Proof.Machine

/-- One step: the next input of the schedule, or the engine's turn. -/
def step (s : State) : Host.Outcome State Fault Refusal := advance s

/-- The state in which the next step executes the opcode-table word `w` of `nbits` bits: the engine fetches a
command from PENDING while BUSY (60_exceptions.md R252; log 2). -/
def State.withFetchWord (s : State) (nbits w : Nat) : State := s.placeWord (tableWord nbits w)

end Sys2Proof.Machine
end

