-- ==== Sys2Proof/Safety.lean ====
section
/-! DEFINITION. What a sound state and an orderly host are: the invariants of 10_state.md R62 (with R52 and the
model's own consistency), and the busy rules of 20_memory.md R83 and 70_reset_and_hazards.md R285. -/

namespace Sys2Proof.Machine

/-- What holds in every reachable state (10_state.md R62; R48, R49, R52, R36; 20_memory.md R76;
70_reset_and_hazards.md R280, R286). PRESET at most 9 and CRUSH at most 3 hold by the types of the fields. -/
structure State.Sound (s : State) : Prop where
  /-- READY = 0 implies BUFLEN = 0, CURSOR = 0 and RATE = +0.0 (R62, R281). -/
  unready : s.ready = false → s.buflen = 0 ∧ s.cursor = 0 ∧ s.rate = 0
  /-- READY = 1 implies that RATE is finite and positive (R62). -/
  rate_ok : s.ready = true → f32FinitePositive s.rate = true
  /-- READY = 1 implies that BUFLEN is the length RATE needs, a power of two within the delay memory (R62, R48). -/
  buflen_ok : s.ready = true → s.buflen.toNat = bufferLength s.rate ∧ ∃ k ≤ Config.maxBufLog2, s.buflen.toNat = 2 ^ k
  /-- READY = 1 implies CURSOR < BUFLEN (R62, R49). -/
  cursor_ok : s.ready = true → s.cursor.toNat < s.buflen.toNat
  /-- READY = 1 implies that DERIVED is the selected preset's record at RATE (R52). -/
  derived_ok : s.ready = true → s.derived = derive s.params (s.params.presetAt s.preset) s.rate
  /-- The table of the parameters is well formed (R59). -/
  table_ok : ∀ i : Fin 10, (s.params.presetAt i).offsetsBelowLongest = true
  /-- ERR = 0 exactly when ERRCODE = 0 (R62, R36; 60_exceptions.md R251). -/
  errcode_ok : s.err = false ↔ s.errcode = .none
  /-- SL and SR are in canonical form. -/
  samples_wf : s.samples.wf = true
  /-- B is in canonical form. -/
  delay_wf : s.delay.wf = true
  /-- A write to SL or SR is outstanding only while a command is BUSY (70_reset_and_hazards.md R286). -/
  hazard_busy : s.hazard = true → s.busy = true
  /-- No command is BUSY while reset is asserted (70_reset_and_hazards.md R280). -/
  reset_idle : s.resetLine = true → s.busy = false

/-- The offset an access names. -/
def BusAccess.offset : BusAccess → Nat
  | .read _ off => off
  | .write _ off _ => off

/-- The access keeps the busy rules: while BUSY no write to CMD (70_reset_and_hazards.md R285), no access to SL or SR
and no read of RATE to CURSOR (20_memory.md R83). -/
def State.permits (s : State) (a : BusAccess) : Bool :=
  !s.busy ||
    match a with
    | .read _ off =>
      match target off with
      | .reg r => !r.closedWhileBusy
      | .sample _ _ => false
      | .unmapped => true
    | .write _ off _ =>
      match target off with
      | .reg r => decide (r ≠ .cmd)
      | .sample _ _ => false
      | .unmapped => true

/-- The bits of a command word that the command uses: OPC, and IMM8 or N16 where it has an operand
(30_encoding.md R101, R104). -/
def usedBits : Instr → Word
  | .nop => 0x000000FF
  | .init => 0x000000FF
  | .setPreset _ => 0x0000FFFF
  | .setWet => 0x000000FF
  | .setDry => 0x000000FF
  | .setMaster => 0x000000FF
  | .setCrush _ => 0x0000FFFF
  | .setChannels _ => 0x0000FFFF
  | .process _ => 0xFFFF00FF

/-- The inputs that are edges of the reset input (70_reset_and_hazards.md R280). -/
def Event.isReset : Event → Bool
  | .engine => false
  | .access _ => false
  | .assertReset => true
  | .assertResetAfterStep => true
  | .releaseReset => true

/-- Every word of the circular buffer is +0.0 (20_memory.md R78). -/
def State.bufferZero (s : State) : Prop := ∀ i < s.buflen.toNat, s.delayWord i = 0

/-- All ten gains of the derived record are +0.0, as the Off preset's are (10_state.md R57, R58). -/
def Derived.silent (d : Derived) : Prop :=
  d.g_vIIR = 0 ∧ d.g_vCOMB1 = 0 ∧ d.g_vCOMB2 = 0 ∧ d.g_vCOMB3 = 0 ∧ d.g_vCOMB4 = 0 ∧ d.g_vWALL = 0 ∧
    d.g_vAPF1 = 0 ∧ d.g_vAPF2 = 0 ∧ d.g_vLIN = 0 ∧ d.g_vRIN = 0

/-- The delay-memory words that one sample writes: the taps of the four reflections and the four all-pass stages
(42_reverb_kernel.md R184, R185, R187, R188). -/
def State.writtenTaps (s : State) : List Nat :=
  [s.tapA s.derived.S_mLSAME, s.tapA s.derived.S_mRSAME, s.tapA s.derived.S_mLDIFF, s.tapA s.derived.S_mRDIFF,
    s.tapA s.derived.S_mLAPF1, s.tapA s.derived.S_mRAPF1, s.tapA s.derived.S_mLAPF2, s.tapA s.derived.S_mRAPF2]

/-- The offsets of the window that are no register and no sample word: the unmapped ones of R70, and the sample offsets
with n at or above BLOCK_MAX, which read 0 and ignore writes as they do (20_memory.md R70, R74; log 16). -/
def unmappedOffset (off : Nat) : Prop :=
  (0x40 ≤ off ∧ off < 0x10000) ∨ (0x18000 ≤ off ∧ off < 0x20000) ∨ (0x28000 ≤ off ∧ off < 0x40000)

/-- The offsets of the read-only registers other than STATUS: ID, and RATE to BUFCAP (10_state.md R30). -/
def readOnlyOffset (off : Nat) : Prop := off = 0x00 ∨ (0x14 ≤ off ∧ off ≤ 0x3C)

/-- The word of a rate that INIT accepts as a number: finite and positive, so +0.0 < rate < +infinity as patterns
(41_control_commands.md R151). -/
def rateWord (r : Word) : Prop := 0 < r.toNat ∧ r.toNat < 0x7F800000

/-- An f32 is finite. -/
def f32Finite (x : Word) : Bool :=
  match f32Val x with
  | .fin _ _ => true
  | .inf _ => false
  | .nan => false

/-- Two words are the same, or both NaNs (93_implementation_defined.md I4). -/
def sameUpToNaN (x y : Word) : Prop := x = y ∨ (f32Val x = .nan ∧ f32Val y = .nan)

/-- Half a place past the largest finite f32, in units of 2^-149: from there on a result is infinite (R11). -/
def f32Threshold : Nat := (2 ^ 25 - 1) * 2 ^ 252

/-- The word `w` is the f32 nearest to `num / den` units of 2^-149, an even fraction at a tie, an infinity from the
threshold on, never a NaN (00_scope.md R11). -/
def f32Nearest (num : Int) (den : Nat) (w : Word) : Prop :=
  match f32Val w with
  | .fin c k =>
    num.natAbs < f32Threshold * den ∧
      ∀ (v : Word) (d : Bool) (j : Nat), f32Val v = .fin d j →
        let e := (FloatFormat.signedMag c k * den - num).natAbs
        let e' := (FloatFormat.signedMag d j * den - num).natAbs
        e ≤ e' ∧ (e = e' → FloatFormat.signedMag d j = FloatFormat.signedMag c k ∨ w.getLsbD 0 = false)
  | .inf neg => f32Threshold * den ≤ num.natAbs ∧ (neg = true ↔ num < 0)
  | .nan => False

end Sys2Proof.Machine
end

