-- ==== Sys2Proof/Certificates/Slice0/Obligations.lean ====
section
/-! DEFINITION. The statements for the provers. Each docstring names the rules of spec/ it comes from. A statement
that mentions a free value (`Config.nanPayload`, `Config.freeByte`, `Config.freeWord`, a `NanTag`) or the model's own
fields (`schedule`, `response`, `freeCount`, `params`) holds for every value of them. -/

open Sys2Proof Sys2Proof.Machine

/-! ### Encoding -/

/-- R101 to R107: decoding the word of a well-formed command gives it back, and a word that decodes differs from the
encoding of what it decodes to only in bits the command does not use. -/
def Obligations.DecodeAndEncodeAgree : Prop :=
  (∀ i : Instr, i.wellFormed = true → decode (encode i) = .ok i) ∧
    ∀ (w : Word) (i : Instr), decode w = .ok i → i.wellFormed = true ∧ encode i = w &&& usedBits i

/-- R104: a word executes as the same word with its unused fields zero, and no word with a defined opcode is
illegal. -/
def Obligations.UnusedFieldsAreIgnored : Prop :=
  (∀ (w : Word) (i : Instr), decode w = .ok i →
      decode (w &&& usedBits i) = .ok i ∧ ∀ s : State, execWord (w &&& usedBits i) s = execWord w s) ∧
    ∀ w : Word, (opcField w).toNat ≤ 0x08 → ∃ i, decode w = .ok i

/-- R103, R105: the opcode map, by the low eight bits alone, and what is reserved; that it is total is the spec's own
inference (R106). -/
def Obligations.OpcodeMapIsTotal : Prop :=
  ∀ w : Word,
    (w.toNat % 256 = 0x00 → decode w = .ok .nop) ∧
    (w.toNat % 256 = 0x01 → decode w = .ok .init) ∧
    (w.toNat % 256 = 0x02 → decode w = .ok (.setPreset (w.toNat / 256 % 256))) ∧
    (w.toNat % 256 = 0x03 → decode w = .ok .setWet) ∧
    (w.toNat % 256 = 0x04 → decode w = .ok .setDry) ∧
    (w.toNat % 256 = 0x05 → decode w = .ok .setMaster) ∧
    (w.toNat % 256 = 0x06 → decode w = .ok (.setCrush (w.toNat / 256 % 256))) ∧
    (w.toNat % 256 = 0x07 → decode w = .ok (.setChannels (w.toNat / 256 % 256))) ∧
    (w.toNat % 256 = 0x08 → decode w = .ok (.process (w.toNat / 65536))) ∧
    (0x09 ≤ w.toNat % 256 → decode w = .error (.reservedOpcode (BitVec.ofNat 8 w.toNat)))

/-- R109: the spec's encoding examples, which it derives itself from R101, R103 and R107, with the operand patterns it
gives. -/
def Obligations.SpecEncodingExamples : Prop :=
  decode 0x00000000 = .ok .nop ∧ encode .nop = 0x00000000 ∧
  decode 0x00000001 = .ok .init ∧ encode .init = 0x00000001 ∧
  f32OfNat 48000 = 0x473B8000 ∧ f32OfNat 22050 = 0x46AC4400 ∧
  decode 0x00000402 = .ok (.setPreset 4) ∧ encode (.setPreset 4) = 0x00000402 ∧
  decode 0x00000902 = .ok (.setPreset 9) ∧ encode (.setPreset 9) = 0x00000902 ∧
  decode 0x00000003 = .ok .setWet ∧ encode .setWet = 0x00000003 ∧ f32OfNat 1 = 0x3F800000 ∧
  decode 0x00000004 = .ok .setDry ∧ encode .setDry = 0x00000004 ∧
  decode 0x00000005 = .ok .setMaster ∧ encode .setMaster = 0x00000005 ∧
  decode 0x00000206 = .ok (.setCrush 2) ∧ encode (.setCrush 2) = 0x00000206 ∧
  decode 0x00000107 = .ok (.setChannels 1) ∧ encode (.setChannels 1) = 0x00000107 ∧
  decode 0x10000008 = .ok (.process 4096) ∧ encode (.process 4096) = 0x10000008 ∧
  decode 0x00040008 = .ok (.process 4) ∧ encode (.process 4) = 0x00040008

/-! ### The life of a command -/

/-- R252: when the engine's turn comes (the schedule says so, or is empty) and the pending word decodes to `i`, the
step is `exec` of `i`, and where the pending opcode is reserved the step raises BAD_OPCODE and changes no other state
(R105); then comes what a host write under BUSY left behind (R286), which is nothing when there was none. The schedule
is the model's own (log 1). -/
def Obligations.StepRunsTheDecodedCommand : Prop :=
  (∀ (s : State) (i : Instr), s.busy = true → s.resetLine = false → decode s.pending.cmd = .ok i →
    (s.schedule = [] → step s = mapNext State.settle (exec i s)) ∧
    (∀ rest, s.schedule = .engine :: rest → step s = mapNext State.settle (exec i { s with schedule := rest }))) ∧
  (∀ s : State, s.busy = true → s.resetLine = false → 0x09 ≤ s.pending.cmd.toNat % 256 →
    (s.schedule = [] →
      step s = .next (State.settle { s with err := true, errcode := .badOpcode, done := true, busy := false })) ∧
    (∀ rest, s.schedule = .engine :: rest →
      step s = .next (State.settle { s with schedule := rest, err := true, errcode := .badOpcode, done := true,
                                            busy := false }))) ∧
  ∀ t : State, t.hazard = false → t.settle = t

/-- R252, R285: a host write of `w` to CMD is accepted when BUSY = 0, latching `w` and ARG, and dropped with
ERRCODE 2 when BUSY = 1, the running command unaffected. -/
def Obligations.CmdWriteIsAcceptedOrDropped : Prop :=
  ∀ (s : State) (rest : List Event) (w : Word), s.resetLine = false →
    (s.busy = false → step { s with schedule := .access (.write 4 0x10 w) :: rest } =
      .next { s with schedule := rest, pending := ⟨w, s.arg⟩, busy := true, response := .written }) ∧
    (s.busy = true → step { s with schedule := .access (.write 4 0x10 w) :: rest } =
      .next { s with schedule := rest, err := true, errcode := .busy, response := .written })

/-- R252, R253, R254, R33: every step of a BUSY engine, also of one whose pending opcode is reserved, ends its command:
BUSY is 0 and DONE is 1 after it. -/
def Obligations.EngineStepEndsTheCommand : Prop :=
  ∀ s : State, s.busy = true → s.resetLine = false → (s.schedule = [] ∨ ∃ rest, s.schedule = .engine :: rest) →
    ∃ t, step s = .next t ∧ t.busy = false ∧ t.done = true

/-- R105, R254: executing a word with a reserved opcode raises BAD_OPCODE and changes no other state. -/
def Obligations.ReservedOpcodeRaisesBadOpcode : Prop :=
  ∀ (w : Word) (s : State), 0x09 ≤ w.toNat % 256 →
    execWord w s = .next { s with err := true, errcode := .badOpcode, done := true, busy := false }

/-- R39, R252: a write of ARG while a command is BUSY does not reach that command: executing it from the new ARG
differs in ARG alone. -/
def Obligations.RunningCommandIgnoresNewArg : Prop :=
  ∀ (i : Instr) (s : State) (v : Word),
    exec i { s with arg := v } = mapNext (fun t => { t with arg := v }) (exec i s)

/-- R256, R257, R71, R60: a step always answers a next state, with the parameters as they were, but for a host access to
an offset outside the window, which the model faults (log 4). -/
def Obligations.StepStopsOnlyOutsideTheWindow : Prop :=
  ∀ s : State, (∃ t, step s = .next t ∧ t.params = s.params) ∨
    (step s = .fault .outsideWindow ∧ ∃ a rest, s.schedule = .access a :: rest ∧ 0x40000 ≤ a.offset)

/-! ### Commands -/

/-- R150: NOP is `complete()`, in every state. -/
def Obligations.NopCompletes : Prop :=
  (∀ w : Word, w.toNat % 256 = 0x00 → decode w = .ok .nop) ∧
    ∀ s : State, exec .nop s = .next { s with busy := false, done := true }

/-- R154, R155, R156: SET_WET, SET_DRY and SET_MASTER store the operand unchanged, in every state, and change nothing
else but STATUS. -/
def Obligations.GainSettersStoreTheOperand : Prop :=
  (∀ w : Word, w.toNat % 256 = 0x03 → decode w = .ok .setWet) ∧
  (∀ w : Word, w.toNat % 256 = 0x04 → decode w = .ok .setDry) ∧
  (∀ w : Word, w.toNat % 256 = 0x05 → decode w = .ok .setMaster) ∧
  ∀ s : State,
    exec .setWet s = .next { s with wet := s.pending.arg, busy := false, done := true } ∧
    exec .setDry s = .next { s with dry := s.pending.arg, busy := false, done := true } ∧
    exec .setMaster s = .next { s with master := s.pending.arg, busy := false, done := true }

/-- R210: SET_CRUSH stores the level, a level above 3 as 3, in every state. -/
def Obligations.SetCrushSaturates : Prop :=
  (∀ w : Word, w.toNat % 256 = 0x06 → decode w = .ok (.setCrush (w.toNat / 256 % 256))) ∧
    ∀ (imm : Nat) (s : State), ∃ k : Fin 4, k.val = min imm 3 ∧
      exec (.setCrush imm) s = .next { s with crush := k, busy := false, done := true }

/-- R230: SET_CHANNELS selects mono for a count of 1 and stereo for every other, in every state. -/
def Obligations.SetChannelsSelectsMono : Prop :=
  (∀ w : Word, w.toNat % 256 = 0x07 → decode w = .ok (.setChannels (w.toNat / 256 % 256))) ∧
    ∀ s : State,
      exec (.setChannels 1) s = .next { s with mono := true, busy := false, done := true } ∧
      ∀ imm, imm ≠ 1 → exec (.setChannels imm) s = .next { s with mono := false, busy := false, done := true }

/-- R152 (with R138, R78): SET_PRESET changes nothing for an index above 9 or the selected one; before INIT it records the
index alone; else it records the index, derives the record and zeroes the circular buffer, and changes no other byte
of B and no other state. -/
def Obligations.SetPresetSwitches : Prop :=
  (∀ w : Word, w.toNat % 256 = 0x02 → decode w = .ok (.setPreset (w.toNat / 256 % 256))) ∧
  ∀ (imm : Nat) (s : State),
    (9 < imm ∨ imm = s.preset.val → exec (.setPreset imm) s = .next { s with busy := false, done := true }) ∧
    (imm ≤ 9 → imm ≠ s.preset.val → ∃ i : Fin 10, i.val = imm ∧
      (s.ready = false → exec (.setPreset imm) s = .next { s with preset := i, busy := false, done := true }) ∧
      (s.ready = true → ∃ t, exec (.setPreset imm) s = .next t ∧
        t = { s with preset := i, derived := derive s.params (s.params.presetAt i) s.rate, delay := t.delay,
                     busy := false, done := true } ∧
        (∀ k < s.buflen.toNat, t.delayWord k = 0) ∧
        (∀ a, 4 * s.buflen.toNat ≤ a → t.delay.byte a = s.delay.byte a)))

/-- R151, R254, R255: INIT raises BAD_RATE for a zero, negative, infinite or NaN rate, else BUF_CAP for a rate whose
buffer exceeds the delay memory, and then changes STATUS alone. -/
def Obligations.InitRejectsBadRates : Prop :=
  ∀ s : State,
    (¬ rateWord s.pending.arg →
      exec .init s = .next { s with err := true, errcode := .badRate, done := true, busy := false }) ∧
    (rateWord s.pending.arg → 2 ^ 19 < bufferLength s.pending.arg →
      exec .init s = .next { s with err := true, errcode := .bufCap, done := true, busy := false })

/-- R151, R138, R78: INIT of a good rate sets RATE, BUFLEN, CURSOR = 0, READY = 1 and DERIVED, zeroes the circular
buffer, and changes no other byte of B and no other state. -/
def Obligations.InitAllocatesAndZeroes : Prop :=
  ∀ s : State, rateWord s.pending.arg → bufferLength s.pending.arg ≤ 2 ^ 19 →
    ∃ t, exec .init s = .next t ∧
      t = { s with rate := s.pending.arg, buflen := t.buflen, cursor := 0, ready := true,
                   derived := derive s.params (s.params.presetAt s.preset) s.pending.arg, delay := t.delay,
                   busy := false, done := true } ∧
      t.buflen.toNat = bufferLength s.pending.arg ∧
      (∀ k < bufferLength s.pending.arg, t.delayWord k = 0) ∧
      (∀ a, 4 * bufferLength s.pending.arg ≤ a → t.delay.byte a = s.delay.byte a)

/-- R232, R254, R255: PROCESS before a successful INIT raises NOT_INIT for every N; after one, an N above BLOCK_MAX
raises BLOCK_LEN; both change STATUS alone. -/
def Obligations.ProcessErrorsInOrder : Prop :=
  ∀ (n : Nat) (s : State),
    (s.ready = false →
      exec (.process n) s = .next { s with err := true, errcode := .notInit, done := true, busy := false }) ∧
    (s.ready = true → 8192 < n →
      exec (.process n) s = .next { s with err := true, errcode := .blockLen, done := true, busy := false })

/-- R232, R190, R76: PROCESS of N ≤ BLOCK_MAX samples takes the crush of SL[0..N-1] and, in stereo, of SR[0..N-1], in
mono the crushed left block twice; runs the kernel over the pairs in increasing order; writes its outputs, in mono the
left ones twice, to SL[0..N-1] and SR[0..N-1]; leaves B and CURSOR as the kernel does, CURSOR at (CURSOR + N) mod
BUFLEN; and changes no other byte of the sample memories, no byte of B at or above BUFLEN, and no other state but the
model's counter of free values. -/
def Obligations.ProcessWritesTheBlockAndTheCursor : Prop :=
  (∀ s : State, s.runKernel [] = (s, [])) ∧
  (∀ (s : State) (x : Word × Word) (xs : List (Word × Word)), s.runKernel (x :: xs) =
    (((s.kernel x.1 x.2).1.runKernel xs).1, (s.kernel x.1 x.2).2 :: ((s.kernel x.1 x.2).1.runKernel xs).2)) ∧
  ∀ (n : Nat) (s : State), s.ready = true → n ≤ 8192 → s.cursor.toNat < s.buflen.toNat →
    ∃ t, exec (.process n) s = .next t ∧
      t = { s with samples := t.samples, delay := t.delay, cursor := t.cursor, freeCount := t.freeCount,
                   busy := false, done := true } ∧
      t.cursor.toNat = (s.cursor.toNat + n) % s.buflen.toNat ∧
      (∃ (xl xr inl inr : List Word) (el er k : Nat) (u : State) (ys : List (Word × Word)),
        xl.length = n ∧ (∀ j < n, xl[j]? = some (s.sample .left j)) ∧ inl = crushBlock el xl s.crush ∧
        xr.length = n ∧ (∀ j < n, xr[j]? = some (s.sample .right j)) ∧
        inr = (if s.mono then inl else crushBlock er xr s.crush) ∧
        State.runKernel { s with freeCount := k } (inl.zip inr) = (u, ys) ∧ ys.length = n ∧
        t.delay = u.delay ∧ t.cursor = u.cursor ∧
        ∀ j y, ys[j]? = some y → t.sample .left j = y.1 ∧ t.sample .right j = if s.mono then y.1 else y.2) ∧
      (∀ a, (a < sampleOffset .left 0 ∨ sampleOffset .left n ≤ a) →
        (a < sampleOffset .right 0 ∨ sampleOffset .right n ≤ a) → t.samples.byte a = s.samples.byte a) ∧
      (∀ a, 4 * s.buflen.toNat ≤ a → t.delay.byte a = s.delay.byte a)

/-- R232 (corner case N = 0): it completes with no change but DONE (and the model's counter of free values). -/
def Obligations.ProcessOfNothing : Prop :=
  ∀ s : State, s.ready = true →
    ∃ k, exec (.process 0) s = .next { s with busy := false, done := true, freeCount := k }

/-- R233: in mono the output blocks are the same, word for word. -/
def Obligations.MonoOutputsAreIdentical : Prop :=
  ∀ (n : Nat) (s : State), s.ready = true → s.mono = true → n ≤ 8192 →
    ∃ t, exec (.process n) s = .next t ∧ ∀ k < n, t.sample .left k = t.sample .right k

/-- R233: in mono SR is not read: two states that differ only in the bytes of SR end with the same registers, the same
B and the same SL[0..N-1] and SR[0..N-1]. -/
def Obligations.MonoDoesNotReadTheRightBlock : Prop :=
  ∀ (n : Nat) (s : State) (m : Memory), s.ready = true → s.mono = true → n ≤ 8192 →
    (∀ a, a < sampleOffset .right 0 → m.byte a = s.samples.byte a) →
    ∃ t t', exec (.process n) s = .next t ∧ exec (.process n) { s with samples := m } = .next t' ∧
      t' = { t with samples := t'.samples } ∧
      ∀ k < n, t'.sample .left k = t.sample .left k ∧ t'.sample .right k = t.sample .right k

/-- The spec's own inferences (R153, R152): after an INIT that succeeds, a PROCESS does not depend on what B, CURSOR,
RATE, BUFLEN, READY and DERIVED held before the INIT, and after a SET_PRESET that changes PRESET with READY = 1, not on
what B and DERIVED held before it: it leaves the same samples and registers, and the same words in the circular buffer.
Nor does it depend on CURSOR, which SET_PRESET keeps: from another cursor position it leaves the same samples and the
same registers but CURSOR, and the same circular buffer as seen from the cursor. -/
def Obligations.InitResetsTheHistory : Prop :=
  (∀ (s : State) (b : Memory) (c r l : Word) (y : Bool) (d : Derived) (n : Nat),
    rateWord s.pending.arg → bufferLength s.pending.arg ≤ 2 ^ 19 →
    ∃ t t' u u', exec .init s = .next t ∧
      exec .init { s with delay := b, cursor := c, rate := r, buflen := l, ready := y, derived := d } = .next t' ∧
      exec (.process n) t = .next u ∧ exec (.process n) t' = .next u' ∧
      u' = { u with delay := u'.delay } ∧ ∀ k < u.buflen.toNat, u'.delayWord k = u.delayWord k) ∧
  (∀ (s : State) (b : Memory) (d : Derived) (imm n : Nat),
    s.ready = true → 0 < s.buflen.toNat → imm ≤ 9 → imm ≠ s.preset.val →
    ∃ t t' u u', exec (.setPreset imm) s = .next t ∧
      exec (.setPreset imm) { s with delay := b, derived := d } = .next t' ∧
      exec (.process n) t = .next u ∧ exec (.process n) t' = .next u' ∧
      u' = { u with delay := u'.delay } ∧ ∀ k < u.buflen.toNat, u'.delayWord k = u.delayWord k) ∧
  ∀ (s : State) (b : Memory) (d : Derived) (c : Word) (imm n : Nat),
    s.ready = true → 0 < s.buflen.toNat → imm ≤ 9 → imm ≠ s.preset.val →
    ∃ t t' u u', exec (.setPreset imm) s = .next t ∧
      exec (.setPreset imm) { s with delay := b, derived := d, cursor := c } = .next t' ∧
      t'.cursor = c ∧ exec (.process n) t = .next u ∧ exec (.process n) t' = .next u' ∧
      u' = { u with delay := u'.delay, cursor := u'.cursor } ∧
      ∀ o : Word, u'.delayWord (u'.tapA o) = u.delayWord (u.tapA o)

/-- R79, R253, R254, R60: the state each command reaches: every register of the host's own, the parameters and the inputs
are out of every command's reach; every command ends with BUSY 0 and DONE 1; ERR and ERRCODE change only under INIT and
PROCESS; and each other piece of state is written by the commands named and no other. -/
def Obligations.CommandsReachTheirStateAlone : Prop :=
  ∀ (i : Instr) (s t : State), exec i s = .next t →
    t.irqEn = s.irqEn ∧ t.arg = s.arg ∧ t.pending = s.pending ∧ t.schedule = s.schedule ∧
    t.response = s.response ∧ t.resetLine = s.resetLine ∧ t.hazard = s.hazard ∧ t.params = s.params ∧
    t.busy = false ∧ t.done = true ∧
    (t.err ≠ s.err ∨ t.errcode ≠ s.errcode → i = .init ∨ ∃ n, i = .process n) ∧
    (t.freeCount ≠ s.freeCount → ∃ n, i = .process n) ∧
    (t.rate ≠ s.rate ∨ t.buflen ≠ s.buflen ∨ t.ready ≠ s.ready → i = .init) ∧
    (t.wet ≠ s.wet → i = .setWet) ∧ (t.dry ≠ s.dry → i = .setDry) ∧ (t.master ≠ s.master → i = .setMaster) ∧
    (t.preset ≠ s.preset → ∃ imm, i = .setPreset imm) ∧
    (t.crush ≠ s.crush → ∃ imm, i = .setCrush imm) ∧
    (t.mono ≠ s.mono → ∃ imm, i = .setChannels imm) ∧
    (t.cursor ≠ s.cursor → i = .init ∨ ∃ n, i = .process n) ∧
    (t.samples ≠ s.samples → ∃ n, i = .process n) ∧
    (t.derived ≠ s.derived → i = .init ∨ ∃ imm, i = .setPreset imm) ∧
    (t.delay ≠ s.delay → i = .init ∨ (∃ imm, i = .setPreset imm) ∨ ∃ n, i = .process n)

/-! ### The kernel -/

/-- R77, R181: for a buffer of 2^k words, k ≤ 19, a tap is the 32-bit sum, wrapped as unsigned words wrap, under the mask
2^k - 1; so it lies in the buffer. -/
def Obligations.TapIsTheMaskedUnsignedSum : Prop :=
  ∀ k ≤ 19, ∀ o c x : Word,
    tapIndex (2 ^ k) c.toNat o.toNat x.toNat = ((o + c - x) &&& BitVec.ofNat 32 (2 ^ k - 1)).toNat ∧
    tapIndex (2 ^ k) c.toNat o.toNat x.toNat < 2 ^ k

/-- R182 to R190: the kernel, operation by operation: the expressions of the reflection filter, the comb sum and the
output mix; what a reflection tap reads (its wall at the current position, its own previous sample one behind) and
writes; and the whole of one sample in the order of R188: the scaled inputs, the four reflections, the comb sums of both
channels, the four all-pass stages, the cursor and the output pair, each with its offsets and gains. The tags only name
the NaN a NaN result would be (log 6). -/
def Obligations.KernelExpressions : Prop :=
  (∀ t gWall gIIR inp w prev, ∃ t1 t2 t3 t4 t5, reflectionFilter t gWall gIIR inp w prev =
    f32Add t5 (f32Mul t4 (f32Sub t3 (f32Add t2 inp (f32Mul t1 w gWall)) prev) gIIR) prev) ∧
  (∀ (s : State) (t : NanTag) (o1 o2 o3 o4 : Word), ∃ t1 t2 t3 t4 t5 t6 t7, s.combSum t o1 o2 o3 o4 =
    f32Add t7 (f32Add t6 (f32Add t5
      (f32Mul t1 s.derived.g_vCOMB1 (s.delayWord (tapIndex s.buflen.toNat s.cursor.toNat o1.toNat 0)))
      (f32Mul t2 s.derived.g_vCOMB2 (s.delayWord (tapIndex s.buflen.toNat s.cursor.toNat o2.toNat 0))))
      (f32Mul t3 s.derived.g_vCOMB3 (s.delayWord (tapIndex s.buflen.toNat s.cursor.toNat o3.toNat 0))))
      (f32Mul t4 s.derived.g_vCOMB4 (s.delayWord (tapIndex s.buflen.toNat s.cursor.toNat o4.toNat 0)))) ∧
  (∀ (s : State) (t : NanTag) (out x : Word), ∃ t1 t2 t3 t4, s.mix t out x =
    f32Mul t4 (f32Add t3 (f32Mul t1 out s.wet) (f32Mul t2 x s.dry)) s.master) ∧
  (∀ (s : State) (t : NanTag) (inp wall tap : Word), ∃ t', s.reflect t inp wall tap =
    s.setDelayWord (tapIndex s.buflen.toNat s.cursor.toNat tap.toNat 0)
      (reflectionFilter t' s.derived.g_vWALL s.derived.g_vIIR inp
        (s.delayWord (tapIndex s.buflen.toNat s.cursor.toNat wall.toNat 0))
        (s.delayWord (tapIndex s.buflen.toNat s.cursor.toNat tap.toNat 1)))) ∧
  ∀ (s : State) (xL xR : Word), ∃ (n1 n2 n3 n4 n5 n6 n7 n8 n9 n10 n11 n12 n13 n14 : NanTag)
      (lin rin lc rc : Word) (s1 s2 s3 s4 : State) (l1 r1 l2 r2 : State × Word),
    lin = f32Mul n1 xL s.derived.g_vLIN ∧ rin = f32Mul n2 xR s.derived.g_vRIN ∧
    s1 = s.reflect n3 lin s.derived.S_dLSAME s.derived.S_mLSAME ∧
    s2 = s1.reflect n4 rin s.derived.S_dRSAME s.derived.S_mRSAME ∧
    s3 = s2.reflect n5 lin s.derived.S_dRDIFF s.derived.S_mLDIFF ∧
    s4 = s3.reflect n6 rin s.derived.S_dLDIFF s.derived.S_mRDIFF ∧
    lc = s4.combSum n7 s.derived.S_mLCOMB1 s.derived.S_mLCOMB2 s.derived.S_mLCOMB3 s.derived.S_mLCOMB4 ∧
    rc = s4.combSum n8 s.derived.S_mRCOMB1 s.derived.S_mRCOMB2 s.derived.S_mRCOMB3 s.derived.S_mRCOMB4 ∧
    l1 = s4.allPass n9 lc s.derived.S_mLAPF1 s.derived.S_dAPF1 s.derived.g_vAPF1 ∧
    r1 = l1.1.allPass n10 rc s.derived.S_mRAPF1 s.derived.S_dAPF1 s.derived.g_vAPF1 ∧
    l2 = r1.1.allPass n11 l1.2 s.derived.S_mLAPF2 s.derived.S_dAPF2 s.derived.g_vAPF2 ∧
    r2 = l2.1.allPass n12 r1.2 s.derived.S_mRAPF2 s.derived.S_dAPF2 s.derived.g_vAPF2 ∧
    s.kernel xL xR =
      ({ r2.1 with cursor := BitVec.ofNat 32 (tapIndex s.buflen.toNat s.cursor.toNat 1 0),
                   freeCount := s.freeCount + 1 },
        s.mix n13 l2.2 xL, s.mix n14 r2.2 xR)

/-- R187: an all-pass stage stores `x - (g * t)` at its write offset, where `t` is the read `d + APF_LAG` samples behind
it, gives `(v * g) + t`, and changes no other word of B. -/
def Obligations.AllPassStage : Prop :=
  ∀ (s : State) (n : NanTag) (x mo d g : Word), ∃ t1 t2 t3 t4 r v out,
    r = s.delayWord (tapIndex s.buflen.toNat s.cursor.toNat mo.toNat (d.toNat + 1)) ∧
    v = f32Sub t2 x (f32Mul t1 g r) ∧ out = f32Add t4 (f32Mul t3 v g) r ∧
    (s.allPass n x mo d g).2 = out ∧
    (s.allPass n x mo d g).1.delayWord (tapIndex s.buflen.toNat s.cursor.toNat mo.toNat 0) = v ∧
    ∀ i, i ≠ tapIndex s.buflen.toNat s.cursor.toNat mo.toNat 0 →
      (s.allPass n x mo d g).1.delayWord i = s.delayWord i

/-- R180, R188: one sample changes B at the eight write taps alone, CURSOR, and the model's counter of free values; no
other word of B and no other state. -/
def Obligations.KernelWritesItsTapsAlone : Prop :=
  ∀ (s : State) (xL xR : Word), ∃ t o, s.kernel xL xR = (t, o) ∧
    t = { s with delay := t.delay, cursor := t.cursor, freeCount := s.freeCount + 1 } ∧
    ∀ i, i ∉ s.writtenTaps → t.delayWord i = s.delayWord i

/-- The spec's own inference in R190: after a run of samples CURSOR has moved by their number, modulo BUFLEN. -/
def Obligations.CursorCountsSamples : Prop :=
  ∀ (s : State) (xs : List (Word × Word)), s.cursor.toNat < s.buflen.toNat →
    (s.runKernel xs).1.cursor.toNat = (s.cursor.toNat + xs.length) % s.buflen.toNat

/-- The spec's own inference (R234): with CRUSH = 0, a PROCESS of the first samples of a block and then one of the rest,
loaded to SL[0..] and SR[0..] between them, leave the outputs, B and CURSOR of one PROCESS of the whole block, up to
NaN payloads (I4). -/
def Obligations.ProcessSplitsAcrossBlocks : Prop :=
  ∀ (s : State) (n1 n2 k : Nat) (m : Memory), s.ready = true → s.crush = 0 → n1 + n2 ≤ 8192 →
    (∀ c, ∀ j < n2, m.word (sampleOffset c j) = s.sample c (n1 + j)) →
    ∃ t u v, exec (.process (n1 + n2)) s = .next t ∧ exec (.process n1) s = .next u ∧
      exec (.process n2) { u with samples := m, freeCount := k } = .next v ∧
      v.cursor = t.cursor ∧ (∀ i < t.buflen.toNat, sameUpToNaN (v.delayWord i) (t.delayWord i)) ∧
      (∀ c, ∀ j < n1, sameUpToNaN (u.sample c j) (t.sample c j)) ∧
      ∀ c, ∀ j < n2, sameUpToNaN (v.sample c j) (t.sample c (n1 + j))

/-- The spec's own inference (R191, from R185 and R188): where the two cross-side taps and their wall taps share one word, the right filter reads as its
wall tap the word the left filter has just written, and the word ends with the right filter's value. -/
def Obligations.SharedCrossTapsFollowTheOrder : Prop :=
  ∀ (s : State) (e : Nat) (lin rin o : Word), 2 ≤ s.buflen.toNat →
    s.derived.S_mLDIFF = o → s.derived.S_mRDIFF = o → s.derived.S_dLDIFF = o → s.derived.S_dRDIFF = o →
    ∃ u : State, ∃ tl tr,
      u = (s.reflect ⟨e, 2⟩ lin s.derived.S_dLSAME s.derived.S_mLSAME).reflect ⟨e, 7⟩ rin s.derived.S_dRSAME
        s.derived.S_mRSAME ∧
      (s.reflections e lin rin).delayWord (s.tapA o) =
        reflectionFilter tr s.derived.g_vWALL s.derived.g_vIIR rin
          (reflectionFilter tl s.derived.g_vWALL s.derived.g_vIIR lin (u.delayWord (s.tapA o))
            (u.delayWord (s.tapA1 o)))
          (u.delayWord (s.tapA1 o))

/-- The spec's own inference (R192, 1): with all ten gains +0.0, a buffer of +0.0 and finite inputs, every word of the buffer is still +0.0 after a
sample and the output is the mix of a wet signal of +0.0; so the same holds of every sample of a block. -/
def Obligations.SilentPresetStaysSilent : Prop :=
  ∀ (xs : List (Word × Word)) (s : State), s.derived.silent → 0 < s.buflen.toNat → s.bufferZero →
    (∀ x ∈ xs, f32Finite x.1 = true ∧ f32Finite x.2 = true) →
    (s.runKernel xs).1.bufferZero ∧
    ∀ (k : Nat) (x y : Word × Word), xs[k]? = some x → (s.runKernel xs).2[k]? = some y →
      ∃ tl tr, y = (s.mix tl 0 x.1, s.mix tr 0 x.2)

/-- The spec's own inference (R192, 2): with WET = +0.0, DRY = 1.0, MASTER = 1.0 and a finite wet signal, the mix is the input itself, except that
-0.0 gives +0.0 when the wet signal has sign bit 0 (and a NaN gives a NaN). -/
def Obligations.IdentityMix : Prop :=
  ∀ (s : State) (t : NanTag) (out x : Word), s.wet = 0 → s.dry = 0x3F800000 → s.master = 0x3F800000 →
    f32Finite out = true →
    (x ≠ 0x80000000 → f32Val x ≠ .nan → s.mix t out x = x) ∧
    (x = 0x80000000 → s.mix t out x = if out.getLsbD 31 then 0x80000000 else 0) ∧
    (f32Val x = .nan → f32Val (s.mix t out x) = .nan)

/-! ### The arithmetic -/

/-- R11: the sum, the difference, the product and the quotient of finite f32 numbers are the exact results rounded once,
to the nearest f32, ties to even, an infinity past the largest; the quotient where the divisor is not zero. -/
def Obligations.ArithmeticRoundsOnceToNearestEven : Prop :=
  ∀ (t : NanTag) (x y : Word) (a b : Bool) (m n : Nat), f32Val x = .fin a m → f32Val y = .fin b n →
    f32Nearest (FloatFormat.signedMag a m + FloatFormat.signedMag b n) 1 (f32Add t x y) ∧
    f32Nearest (FloatFormat.signedMag a m - FloatFormat.signedMag b n) 1 (f32Sub t x y) ∧
    f32Nearest (FloatFormat.signedMag a m * FloatFormat.signedMag b n) (2 ^ 149) (f32Mul t x y) ∧
    (n ≠ 0 → f32Nearest (FloatFormat.signedMag (a ^^ b) (m * 2 ^ 149)) n (f32Div t x y))

/-! ### The crush stage -/

/-- R211, R212, R215: output n of a downsampled block of N samples is interpolated between the even-indexed samples, the
index wrapping modulo N div 2, and a block of fewer than two samples is unchanged; and the crush of a block is, at level
0, the block itself, bit for bit, at level 1 its downsampling, and at levels 2 and 3 the quantization of every sample of
its downsampling, to 12 and to 10 bits. -/
def Obligations.DownsampleInterpolatesEvenSamples : Prop :=
  (∀ (e : Nat) (x : List Word),
    (downsample e x).length = x.length ∧ (x.length < 2 → downsample e x = x) ∧
    ∀ n, n < x.length → 2 ≤ x.length → ∃ t1 t2 t3, ∃ a b frac : Word,
      x[2 * (n / 2 % (x.length / 2))]? = some a ∧ x[2 * ((n / 2 + 1) % (x.length / 2))]? = some b ∧
      frac = (if n % 2 = 0 then 0x00000000 else 0x3F000000) ∧
      (downsample e x)[n]? = some (f32Add t3 a (f32Mul t2 frac (f32Sub t1 b a)))) ∧
  ∀ (e : Nat) (x : List Word),
    crushBlock e x 0 = x ∧ crushBlock e x 1 = downsample e x ∧
    (crushBlock e x 2).length = x.length ∧ (crushBlock e x 3).length = x.length ∧
    ∀ (n : Nat) (v : Word), (downsample e x)[n]? = some v →
      (∃ t, (crushBlock e x 2)[n]? = some (quantize t v 12)) ∧ ∃ t, (crushBlock e x 3)[n]? = some (quantize t v 10)

/-- R12, R214: `round_half_away` of a finite number of m units of 2^-149 is the integer k with
k - 1/2 ≤ m * 2^-149 < k + 1/2, so halves go away from zero, with the sign of the argument; an infinity or NaN is
unchanged. -/
def Obligations.RoundHalfAwayFromZero : Prop :=
  (∀ (x : Word) (neg : Bool) (m : Nat), f32Val x = .fin neg m →
    ∃ k, f32Val (f32RoundHalfAway x) = .fin neg (k * 2 ^ 149) ∧
      2 * (k * 2 ^ 149) ≤ 2 * m + 2 ^ 149 ∧ 2 * m + 2 ^ 149 < 2 * ((k + 1) * 2 ^ 149)) ∧
  ∀ x : Word, f32Finite x = false → f32RoundHalfAway x = x

/-- R213: quantizing is `round_half_away(v * s) / s`, with s = 2048.0 at 12 bits and s = 512.0 at 10 bits; and, the spec's
own inference (R216, 2), where the scaled sample is finite the quantized one is an exact multiple of 1 / s. -/
def Obligations.QuantizeGivesExactMultiples : Prop :=
  ∀ (t : NanTag) (v : Word) (b : Nat) (c : Word), (b = 12 ∧ c = 0x45000000) ∨ (b = 10 ∧ c = 0x44000000) →
    (∃ t1 t2, quantize t v b = f32Div t2 (f32RoundHalfAway (f32Mul t1 v c)) c) ∧
    (f32Finite (f32Mul t v c) = true →
      ∃ neg k, f32Val (quantize t v b) = .fin neg (k * (2 ^ 149 / 2 ^ (b - 1))))

/-! ### Deriving a preset -/

/-- R134, R135, R137, R140: a gain field converts exactly (the spec's own inference in R135): k / 32768 is k * 2^134 units
of 2^-149, with k's sign; an offset field f scales to the truncated binary64 product of 4f and the stretch factor, to
4f at st = 1.0, and a zero field to 0 at every accepted rate; and the derived record holds each of the twenty-two
offsets so scaled, each of the ten gains so converted, and vIIR alone retuned, under all parameters. -/
def Obligations.FieldConversionsAreExact : Prop :=
  (∀ f : Half, f32Val (gainWord f) = .fin f.msb (f.toInt.natAbs * 2 ^ 134)) ∧
    (∀ (st : DWord) (f : Half), ∃ t,
      scaleOffset st f = (f64Trunc (f64Mul t (f64OfInt ((4 * f.toNat : Nat) : Int)) st)).toNat) ∧
    (∀ f : Half, scaleOffset (stretch 0x46AC4400) f = 4 * f.toNat) ∧
    (∀ r : Word, rateWord r → scaleOffset (stretch r) 0 = 0) ∧
    ∀ (ps : Params) (p : Preset) (r : Word) (d : Derived) (o : Half → Word), d = derive ps p r →
      (∀ f, o f = BitVec.ofNat 32 (scaleOffset (stretch r) f)) →
      d.S_dAPF1 = o p.dAPF1 ∧ d.S_dAPF2 = o p.dAPF2 ∧ d.S_mLSAME = o p.mLSAME ∧ d.S_mRSAME = o p.mRSAME ∧
      d.S_mLCOMB1 = o p.mLCOMB1 ∧ d.S_mRCOMB1 = o p.mRCOMB1 ∧ d.S_mLCOMB2 = o p.mLCOMB2 ∧ d.S_mRCOMB2 = o p.mRCOMB2 ∧
      d.S_dLSAME = o p.dLSAME ∧ d.S_dRSAME = o p.dRSAME ∧ d.S_mLDIFF = o p.mLDIFF ∧ d.S_mRDIFF = o p.mRDIFF ∧
      d.S_mLCOMB3 = o p.mLCOMB3 ∧ d.S_mRCOMB3 = o p.mRCOMB3 ∧ d.S_mLCOMB4 = o p.mLCOMB4 ∧ d.S_mRCOMB4 = o p.mRCOMB4 ∧
      d.S_dLDIFF = o p.dLDIFF ∧ d.S_dRDIFF = o p.dRDIFF ∧ d.S_mLAPF1 = o p.mLAPF1 ∧ d.S_mRAPF1 = o p.mRAPF1 ∧
      d.S_mLAPF2 = o p.mLAPF2 ∧ d.S_mRAPF2 = o p.mRAPF2 ∧ d.g_vCOMB1 = gainWord p.vCOMB1 ∧
      d.g_vCOMB2 = gainWord p.vCOMB2 ∧ d.g_vCOMB3 = gainWord p.vCOMB3 ∧ d.g_vCOMB4 = gainWord p.vCOMB4 ∧
      d.g_vWALL = gainWord p.vWALL ∧ d.g_vAPF1 = gainWord p.vAPF1 ∧ d.g_vAPF2 = gainWord p.vAPF2 ∧
      d.g_vLIN = gainWord p.vLIN ∧ d.g_vRIN = gainWord p.vRIN ∧ d.g_vIIR = ps.retune (gainWord p.vIIR) r

/-- R7, R136: IIR_RETUNE gives at a point what the first entry of the parameters for that point says (log 19), and where
no entry is for it, the default formula, which at RATE = 22050.0 returns alpha unchanged for every gain field (the
spec's default, log 12). -/
def Obligations.RetuneIsTheIdentityAtTheNativeRate : Prop :=
  (∀ (ps : Params) (before after : List RetunePoint) (p : RetunePoint), ps.retunePoints = before ++ p :: after →
    (∀ q ∈ before, ¬ (q.alpha = p.alpha ∧ q.rate = p.rate)) → ps.retune p.alpha p.rate = p.result) ∧
  (∀ (ps : Params) (alpha rate : Word), (∀ q ∈ ps.retunePoints, ¬ (q.alpha = alpha ∧ q.rate = rate)) →
    ps.retune alpha rate = iirRetune alpha rate) ∧
  ∀ (ps : Params) (f : Half), (∀ q ∈ ps.retunePoints, ¬ (q.alpha = gainWord f ∧ q.rate = 0x46AC4400)) →
    ps.retune (gainWord f) 0x46AC4400 = gainWord f

/-- R130, R131, R133: at every finite positive rate the stretch factor is finite and positive, at least one word is
required, and the buffer length is the least power of two that holds it. -/
def Obligations.BufferLengthIsTheLeastPowerOfTwo : Prop :=
  ∀ r : Word, rateWord r →
    (∃ m, 0 < m ∧ f64Val (stretch r) = .fin false m) ∧ 1 ≤ requiredLength (stretch r) ∧
    ∃ k, bufferLength r = 2 ^ k ∧ requiredLength (stretch r) ≤ 2 ^ k ∧
      ∀ j, requiredLength (stretch r) ≤ 2 ^ j → k ≤ j

/-- R133: the spec's table, which it derives itself from R130, R131 and R133, of rates, required lengths and buffer lengths. -/
def Obligations.BufferLengthTable : Prop :=
  ∀ p ∈ ([(8000, 17845, 32768), (11025, 24592, 32768), (22050, 49184, 65536), (32000, 71379, 131072),
      (44100, 98368, 131072), (48000, 107068, 131072), (88200, 196736, 262144), (96000, 214135, 262144),
      (176400, 393472, 524288), (192000, 428269, 524288)] : List (Nat × Nat × Nat)),
    requiredLength (stretch (f32OfNat p.1)) = p.2.1 ∧ bufferLength (f32OfNat p.1) = p.2.2

/-- The spec's own inference (R139): for every record that satisfies R59 and every finite positive rate, every scaled offset lies in the buffer. -/
def Obligations.ScaledOffsetsStayInTheBuffer : Prop :=
  ∀ (p : Preset) (r : Word), p.offsetsBelowLongest = true → rateWord r →
    ∀ f ∈ p.offsets, scaleOffset (stretch r) f < bufferLength r

/-- R59, R60: the table that State.reset holds satisfies the well-formedness the spec asks of every table (its values are
the spec's candidate, log 9); and in every table each index from 0 to 9 finds its record, and no other index one. -/
def Obligations.PresetTableIsWellFormed : Prop :=
  (∀ i : Fin 10, (State.reset.params.presetAt i).offsetsBelowLongest = true) ∧
    ∀ (ps : Params) (i : Nat),
      (∀ h : i < 10, ps.lookup i = some (ps.presetAt ⟨i, h⟩)) ∧ (10 ≤ i → ps.lookup i = none)

/-! ### The host window -/

/-- R37: a host write of `v` to STATUS clears DONE where bit 1 is set, ERR and ERRCODE where bit 3 is set, and nothing
else; STATUS bits [31:8] read 0. -/
def Obligations.StatusWriteClears : Prop :=
  (∀ (s : State) (rest : List Event) (v : Word), s.resetLine = false →
    step { s with schedule := .access (.write 4 0x04 v) :: rest } =
      .next { s with schedule := rest, response := .written,
                     done := if v.getLsbD 1 then false else s.done,
                     err := if v.getLsbD 3 then false else s.err,
                     errcode := if v.getLsbD 3 then .none else s.errcode }) ∧
  ∀ s : State, s.statusWord.toNat < 256

/-- R32 to R36: where the flags and the error code stand in STATUS, and the codes of R251. -/
def Obligations.StatusLayout : Prop :=
  (∀ s : State, s.statusWord.getLsbD 0 = s.busy ∧ s.statusWord.getLsbD 1 = s.done ∧
    s.statusWord.getLsbD 2 = s.ready ∧ s.statusWord.getLsbD 3 = s.err ∧
    s.statusWord.toNat / 16 % 16 = s.errcode.code) ∧
  ErrCode.none.code = 0 ∧ ErrCode.badOpcode.code = 1 ∧ ErrCode.busy.code = 2 ∧ ErrCode.notInit.code = 3 ∧
    ErrCode.blockLen.code = 4 ∧ ErrCode.badRate.code = 5 ∧ ErrCode.bufCap.code = 6

/-- R38, R39: a host write to CTRL sets IRQ_EN from bit 0, and one to ARG stores all 32 bits, at any time, also while
BUSY, and each changes nothing else. -/
def Obligations.CtrlAndArgWrites : Prop :=
  ∀ (s : State) (rest : List Event) (v : Word), s.resetLine = false →
    step { s with schedule := .access (.write 4 0x08 v) :: rest } =
      .next { s with schedule := rest, response := .written, irqEn := v.getLsbD 0 } ∧
    step { s with schedule := .access (.write 4 0x0C v) :: rest } =
      .next { s with schedule := rest, response := .written, arg := v }

/-- R72, R74: at an aligned offset a write to a read-only register, to an unmapped offset or to a sample offset at or above
BLOCK_MAX has no effect and completes, and a read of an unmapped or such a sample offset returns 0. That those sample
offsets do so also while BUSY is the model's choice (log 16). -/
def Obligations.UnmappedAndReadOnlyOffsets : Prop :=
  ∀ (s : State) (rest : List Event) (off : Nat) (v : Word), s.resetLine = false → off % 4 = 0 →
    (unmappedOffset off ∨ readOnlyOffset off → step { s with schedule := .access (.write 4 off v) :: rest } =
      .next { s with schedule := rest, response := .written }) ∧
    (unmappedOffset off → step { s with schedule := .access (.read 4 off) :: rest } =
      .next { s with schedule := rest, response := .data 0 })

/-- R73: an access of another width, or at an offset that is no multiple of 4, gets a bus error, changes no state of the
block and returns no data. -/
def Obligations.WrongWidthOrAlignmentIsABusError : Prop :=
  ∀ (s : State) (rest : List Event) (size off : Nat) (v : Word), s.resetLine = false → off < 0x40000 →
    size ≠ 4 ∨ off % 4 ≠ 0 →
    step { s with schedule := .access (.read size off) :: rest } =
      .next { s with schedule := rest, response := .busError } ∧
    step { s with schedule := .access (.write size off v) :: rest } =
      .next { s with schedule := rest, response := .busError }

/-- R80, R82: a read has no side effect: in a window not under reset it changes the answer alone, and, where the answer
is an unspecified word (R286), the model's counter of free values. -/
def Obligations.ReadsHaveNoSideEffect : Prop :=
  ∀ (s : State) (rest : List Event) (off : Nat), s.resetLine = false → off < 0x40000 → off % 4 = 0 →
    ∃ t v, step { s with schedule := .access (.read 4 off) :: rest } = .next t ∧
      t = { s with schedule := rest, response := .data v, freeCount := t.freeCount } ∧
      (s.busy = false → t.freeCount = s.freeCount)

/-- R31, R38 to R51, R83: what the registers read as: all of them in an idle block, and ID, STATUS, CTRL, ARG, CMD,
BLOCKMAX and BUFCAP at any time, also while BUSY. -/
def Obligations.RegisterReads : Prop :=
  ∀ (s : State) (rest : List Event), s.resetLine = false →
    ∀ p ∈ ([(0x00, 0x50535856), (0x04, s.statusWord), (0x08, if s.irqEn then 1 else 0), (0x0C, s.arg), (0x10, 0),
        (0x14, s.rate), (0x18, s.wet), (0x1C, s.dry), (0x20, s.master), (0x24, BitVec.ofNat 32 s.preset.val),
        (0x28, BitVec.ofNat 32 s.crush.val), (0x2C, if s.mono then 1 else 0), (0x30, s.buflen), (0x34, s.cursor),
        (0x38, 0x00002000), (0x3C, 0x00000013)] : List (Nat × Word)),
      s.busy = false ∨ p.1 ≤ 0x10 ∨ 0x38 ≤ p.1 →
      step { s with schedule := .access (.read 4 p.1) :: rest } =
        .next { s with schedule := rest, response := .data p.2 }

/-- R74, R71: an idle block stores a word written to SL[n] or SR[n] and returns it to the next read; every other sample
word, and every byte of the sample memories outside the four written, keeps its value. -/
def Obligations.SampleWordsAreStored : Prop :=
  ∀ (s : State) (rest : List Event) (c : Channel) (n : Nat) (v : Word), s.resetLine = false → s.busy = false →
    n < 8192 → ∃ t, step { s with schedule := .access (.write 4 (sampleOffset c n) v) :: rest } = .next t ∧
      t = { s with schedule := rest, response := .written, samples := t.samples } ∧
      step { t with schedule := .access (.read 4 (sampleOffset c n)) :: rest } =
        .next { t with schedule := rest, response := .data v } ∧
      (∀ c' m, m < 8192 → (c' ≠ c ∨ m ≠ n) → t.sample c' m = s.sample c' m) ∧
      ∀ a, (a < sampleOffset c n ∨ sampleOffset c n + 4 ≤ a) → t.samples.byte a = s.samples.byte a

/-- R83, R286 and log 5: while BUSY a read of RATE to CURSOR or of a sample word answers an unspecified word, the free
value of the model's counter, with no other effect. -/
def Obligations.ClosedReadsWhileBusyAreUnspecified : Prop :=
  ∀ (s : State) (rest : List Event) (off : Nat), s.resetLine = false → s.busy = true → off % 4 = 0 →
    (0x14 ≤ off ∧ off ≤ 0x34) ∨ (0x10000 ≤ off ∧ off < 0x18000) ∨ (0x20000 ≤ off ∧ off < 0x28000) →
    step { s with schedule := .access (.read 4 off) :: rest } =
      .next { s with schedule := rest, response := .data (Config.freeWord s.freeCount),
                     freeCount := s.freeCount + 1 }

/-- R286 and log 10: a host write of a sample word while BUSY changes nothing yet; when the command then completes, the
registers are those the command leaves, and only the memories differ. -/
def Obligations.SampleWriteWhileBusy : Prop :=
  ∀ (s : State) (c : Channel) (n : Nat) (v : Word) (i : Instr), s.resetLine = false → s.busy = true → n < 8192 →
    decode s.pending.cmd = .ok i →
    ∃ t u, step { s with schedule := [.access (.write 4 (sampleOffset c n) v)] } = .next t ∧
      t = { s with schedule := [], response := .written, hazard := true } ∧ step t = .next u ∧
      ∃ w, exec i t = .next w ∧
        u = { w with samples := u.samples, delay := u.delay, hazard := false, freeCount := u.freeCount } ∧
        ∀ a, 4 * w.buflen.toNat ≤ a → u.delay.byte a = w.delay.byte a

/-- R258: the interrupt output is IRQ_EN and (DONE or ERR), as the words CTRL and STATUS show them; that it is 0 at reset
is the spec's own inference. -/
def Obligations.InterruptOutput : Prop :=
  (∀ s : State, s.irq = (s.ctrlWord.getLsbD 0 && (s.statusWord.getLsbD 1 || s.statusWord.getLsbD 3))) ∧
    State.reset.irq = false

/-! ### Reset -/

/-- R281: what the registers read right after reset, and the spec's other reset values. -/
def Obligations.ResetValues : Prop :=
  (∀ p ∈ ([(0x00, 0x50535856), (0x04, 0x00000000), (0x08, 0x00000000), (0x0C, 0x00000000), (0x10, 0x00000000),
      (0x14, 0x00000000), (0x18, 0x00000000), (0x1C, 0x3F800000), (0x20, 0x3F800000), (0x24, 0x00000000),
      (0x28, 0x00000000), (0x2C, 0x00000000), (0x30, 0x00000000), (0x34, 0x00000000), (0x38, 0x00002000),
      (0x3C, 0x00000013)] : List (Nat × Word)),
    step { State.reset with schedule := [.access (.read 4 p.1)] } =
      .next { State.reset with response := .data p.2 }) ∧
  State.reset.irq = false

/-- R280, R281 (the inputs of log 11): asserting and releasing reset, from any state and whether the assertion comes
before or after the step of a command in execution, gives every register its reset value (DERIVED and PENDING are log
8). A reset that arrives while BUSY = 1, with no sample write outstanding, leaves SL, SR and B as they were where the
command is abandoned before its step, and as the command leaves them where it is abandoned after it; of a reset that
arrives while BUSY = 0 the contents are unspecified. -/
def Obligations.ResetFromAnyState : Prop :=
  (∀ (s : State) (rest : List Event) (e : Event), e = .assertReset ∨ e = .assertResetAfterStep → ∃ t u,
    step { s with schedule := e :: .releaseReset :: rest } = .next t ∧ step t = .next u ∧
    u = { State.reset with samples := u.samples, delay := u.delay, schedule := rest, response := s.response,
                           freeCount := u.freeCount, params := s.params } ∧
    (e = .assertReset → s.busy = true → s.hazard = false →
      u.samples = s.samples ∧ u.delay = s.delay ∧ u.freeCount = s.freeCount)) ∧
  ∀ (s : State) (rest : List Event), s.busy = true → s.resetLine = false → s.hazard = false → ∃ t u w,
    step { s with schedule := .assertResetAfterStep :: .releaseReset :: rest } = .next t ∧ step t = .next u ∧
    execWord s.pending.cmd { s with schedule := .releaseReset :: rest } = .next w ∧
    u.samples = w.samples ∧ u.delay = w.delay ∧ u.freeCount = w.freeCount

/-- R280: while reset is asserted a write has no effect, a read returns some word with no other effect, and the engine does
not move. That this holds of misaligned offsets too, and that a write is answered as completed, is the model's choice
(log 11). -/
def Obligations.NoAccessUnderReset : Prop :=
  ∀ (s : State) (rest : List Event) (off : Nat) (v : Word), s.resetLine = true → off < 0x40000 →
    step { s with schedule := .access (.write 4 off v) :: rest } =
      .next { s with schedule := rest, response := .written } ∧
    (∃ w k, step { s with schedule := .access (.read 4 off) :: rest } =
      .next { s with schedule := rest, response := .data w, freeCount := k }) ∧
    step { s with schedule := .engine :: rest } = .next { s with schedule := rest }

/-! ### Invariants -/

/-- R34: READY, once 1, stays 1 under every step but an edge of the reset input. -/
def Obligations.ReadyStaysUntilReset : Prop :=
  ∀ s t : State, step s = .next t → s.ready = true → (∀ e rest, s.schedule = e :: rest → e.isReset = false) →
    t.ready = true

/-- The spec's own inference (R62), with R52, R36 and the model's own consistency (the canonical form of the memories,
logs 10 and 11) and R59: every step keeps the invariant. -/
def Obligations.StepKeepsSound : Prop :=
  ∀ s t : State, s.Sound → step s = .next t → t.Sound

/-- R62, R281: the state right after reset satisfies the invariant. -/
def Obligations.ResetIsSound : Prop := State.reset.Sound
end

