-- ==== Sys2Proof/Laws/Float.lean ====
section
/-! SUPPORT. What rounding does, once for every operation: the value of a rounded pattern, that it is nearest to the
ratio, and that an exact ratio is not changed. -/

namespace Sys2Proof.Machine.FloatFormat

/-- The magnitude of the pattern that rounding forms from the place `sh` and the significand `n`. -/
theorem magOf_place (f : FloatFormat) {sh n : Nat} (hn : n ≤ 2 * 2 ^ f.fracBits)
    (h : sh = 0 ∨ 2 ^ f.fracBits ≤ n) : f.magOf (sh * 2 ^ f.fracBits + n) = n * 2 ^ sh := by
  simp only [magOf]
  generalize hP : 2 ^ f.fracBits = P at *
  have hP0 : 0 < P := hP ▸ Nat.two_pow_pos _
  rcases lt_or_ge n P with h1 | h1
  · obtain rfl : sh = 0 := by omega
    simp [Nat.div_eq_of_lt h1]
  · rcases Nat.lt_or_eq_of_le hn with h2 | rfl
    · have e : sh * P + n = (n - P) + P * (sh + 1) := by rw [Nat.mul_add, Nat.mul_comm P sh]; omega
      rw [e, Nat.add_mul_div_left _ _ hP0, Nat.add_mul_mod_self_left, Nat.div_eq_of_lt (by omega),
        Nat.mod_eq_of_lt (by omega)]
      simp only [Nat.zero_add, Nat.add_one_ne_zero, if_false, Nat.add_sub_cancel]
      rw [show P + (n - P) = n by omega]
    · rw [show sh * P + 2 * P = P * (sh + 2) by ring, Nat.mul_div_cancel_left _ hP0, Nat.mul_mod_right]
      simp only [Nat.add_eq_zero_iff, OfNat.ofNat_ne_zero, and_false, if_false, Nat.add_zero]
      rw [show sh + 2 - 1 = sh + 1 by omega, Nat.pow_succ]; ring

/-- A magnitude is a multiple of the place `sh`, or is below the numbers that have it as their last place. -/
theorem magOf_grid (f : FloatFormat) (p sh : Nat) : 2 ^ sh ∣ f.magOf p ∨ f.magOf p < 2 ^ f.fracBits * 2 ^ sh := by
  simp only [magOf]
  have hP0 : 0 < 2 ^ f.fracBits := Nat.two_pow_pos _
  have hS : 0 < 2 ^ sh := Nat.two_pow_pos _
  split
  · rename_i h
    have := (Nat.div_eq_zero_iff_lt hP0).1 h
    right; nlinarith
  · rename_i h
    rcases Nat.lt_or_ge (p / 2 ^ f.fracBits - 1) sh with h1 | h1
    · right
      obtain ⟨d, rfl⟩ := Nat.exists_eq_add_of_lt h1
      have hm := Nat.mod_lt p hP0
      rw [show p / 2 ^ f.fracBits - 1 + d + 1 = (p / 2 ^ f.fracBits - 1) + (d + 1) by omega, Nat.pow_add, Nat.pow_succ]
      have := Nat.two_pow_pos d
      have := Nat.two_pow_pos (p / 2 ^ f.fracBits - 1)
      have : 2 ^ f.fracBits + p % 2 ^ f.fracBits < 2 ^ f.fracBits * (2 ^ d * 2) := by nlinarith
      nlinarith
    · exact .inl (Dvd.dvd.mul_left (Nat.pow_dvd_pow 2 h1) _)

/-- The nearest integer is within half of the ratio, and even when it is half away. -/
theorem nearestEven_spec {num den : Nat} (hd : 0 < den) :
    2 * (nearestEven num den * den) ≤ 2 * num + den ∧ 2 * num ≤ 2 * (nearestEven num den * den) + den ∧
      (2 * (nearestEven num den * den) = 2 * num + den ∨ 2 * num = 2 * (nearestEven num den * den) + den →
        nearestEven num den % 2 = 0) := by
  have h := Nat.div_add_mod num den
  have hr := Nat.mod_lt num hd
  rw [Nat.mul_comm] at h
  simp only [nearestEven]
  split
  · rename_i hc
    rw [Nat.add_mul]
    omega
  · rename_i hc
    omega

/-- Rounding an integer changes nothing. -/
theorem nearestEven_mul (k : Nat) {den : Nat} (hd : 0 < den) : nearestEven (k * den) den = k := by
  have : ¬ 0 = den := by omega
  simp [nearestEven, Nat.mul_div_cancel _ hd, this]

/-- The last place that rounding keeps of a ratio. -/
def place (f : FloatFormat) (num den : Nat) : Nat := Nat.log2 (num / den) - f.fracBits

/-- The significand that rounding keeps of a ratio. -/
def significand (f : FloatFormat) (num den : Nat) : Nat := nearestEven num (den * 2 ^ f.place num den)

theorem roundRatio_eq (f : FloatFormat) (neg : Bool) (num den : Nat) :
    f.roundRatio neg num den =
      f.withSign neg (min (f.place num den * 2 ^ f.fracBits + f.significand num den) f.infPattern) := rfl

/-- A ratio of at least one unit in the place `sh` when `sh` is not the lowest place. -/
theorem place_le (f : FloatFormat) {num den : Nat} (h : f.place num den ≠ 0) :
    2 ^ f.fracBits * (den * 2 ^ f.place num den) ≤ num := by
  unfold place at *
  have hq : num / den ≠ 0 := by
    intro h0; rw [h0] at h; simp at h
  have h1 := Nat.log2_self_le hq
  have h2 : 2 ^ f.fracBits * 2 ^ (Nat.log2 (num / den) - f.fracBits) = 2 ^ Nat.log2 (num / den) := by
    rw [← Nat.pow_add]; congr 1; omega
  calc 2 ^ f.fracBits * (den * 2 ^ (Nat.log2 (num / den) - f.fracBits))
      = 2 ^ Nat.log2 (num / den) * den := by rw [← h2]; ring
    _ ≤ num / den * den := Nat.mul_le_mul_right _ h1
    _ ≤ num := Nat.div_mul_le_self _ _

/-- The ratio is below two units of the hidden bit in its place. -/
theorem lt_place (f : FloatFormat) {num den : Nat} (hd : 0 < den) :
    num < 2 * 2 ^ f.fracBits * (den * 2 ^ f.place num den) := by
  have h1 : num / den < 2 ^ (Nat.log2 (num / den) + 1) := Nat.lt_log2_self
  have h2 : 2 ^ (Nat.log2 (num / den) + 1) ≤ 2 * 2 ^ f.fracBits * 2 ^ f.place num den := by
    rw [Nat.pow_succ, Nat.mul_comm _ 2, Nat.mul_assoc, ← Nat.pow_add]
    exact Nat.mul_le_mul_left _ (Nat.pow_le_pow_right (by decide) (by unfold place; omega))
  have h3 := (Nat.div_lt_iff_lt_mul hd).1 (lt_of_lt_of_le h1 h2)
  calc num < 2 * 2 ^ f.fracBits * 2 ^ f.place num den * den := h3
    _ = _ := by ring

/-- The significand lies between the hidden bit and twice it, or is a subnormal's. -/
theorem significand_bounds (f : FloatFormat) {num den : Nat} (hd : 0 < den) :
    f.significand num den ≤ 2 * 2 ^ f.fracBits ∧ (f.place num den = 0 ∨ 2 ^ f.fracBits ≤ f.significand num den) := by
  have hD : 0 < den * 2 ^ f.place num den := Nat.mul_pos hd (Nat.two_pow_pos _)
  obtain ⟨h1, h2, -⟩ := nearestEven_spec (num := num) hD
  have hlt := f.lt_place (num := num) hd
  have hle := f.place_le (num := num) (den := den)
  change 2 * (f.significand num den * _) ≤ _ at h1
  change _ ≤ 2 * (f.significand num den * _) + _ at h2
  generalize den * 2 ^ f.place num den = D at *
  constructor
  · by_contra hc
    have : (2 * 2 ^ f.fracBits + 1) * D ≤ f.significand num den * D := Nat.mul_le_mul_right _ (by omega)
    have e : (2 * 2 ^ f.fracBits + 1) * D = 2 * 2 ^ f.fracBits * D + D := by ring
    omega
  · by_cases h0 : f.place num den = 0
    · exact .inl h0
    · right
      have hle := hle h0
      by_contra hc
      have : (f.significand num den + 1) * D ≤ 2 ^ f.fracBits * D := Nat.mul_le_mul_right _ (by omega)
      have e : (f.significand num den + 1) * D = f.significand num den * D + D := by ring
      omega

/-- The magnitude that rounding gives is nearest to the ratio among all magnitudes of the format, and its pattern is
even where another one is as near. -/
theorem significand_nearest (f : FloatFormat) {num den : Nat} (hd : 0 < den) (p : Nat) :
    ((f.significand num den * 2 ^ f.place num den * den : Nat) - (num : Int)).natAbs ≤
        ((f.magOf p * den : Nat) - (num : Int)).natAbs ∧
      (((f.significand num den * 2 ^ f.place num den * den : Nat) - (num : Int)).natAbs =
          ((f.magOf p * den : Nat) - (num : Int)).natAbs →
        f.magOf p = f.significand num den * 2 ^ f.place num den ∨ f.significand num den % 2 = 0) := by
  have hD : 0 < den * 2 ^ f.place num den := Nat.mul_pos hd (Nat.two_pow_pos _)
  obtain ⟨h1, h2, h3⟩ := nearestEven_spec (num := num) hD
  have hle := f.place_le (num := num) (den := den)
  have hg := f.magOf_grid p (f.place num den)
  change 2 * (f.significand num den * _) ≤ _ at h1
  change _ ≤ 2 * (f.significand num den * _) + _ at h2
  change 2 * (f.significand num den * _) = _ ∨ _ = 2 * (f.significand num den * _) + _ → f.significand num den % 2 = 0 at h3
  generalize f.significand num den = S at *
  generalize f.place num den = sh at *
  have eS : S * 2 ^ sh * den = S * (den * 2 ^ sh) := by ring
  rw [eS]
  rcases hg with ⟨m, hm⟩ | hm
  · rw [hm, show 2 ^ sh * m * den = m * (den * 2 ^ sh) by ring]
    rcases lt_trichotomy m S with h | h | h
    · have : (m + 1) * (den * 2 ^ sh) ≤ S * (den * 2 ^ sh) := Nat.mul_le_mul_right _ h
      rw [Nat.add_mul] at this
      generalize den * 2 ^ sh = D at *
      constructor
      · omega
      · intro he; right; apply h3; omega
    · subst h
      exact ⟨le_rfl, fun _ => .inl (Nat.mul_comm _ _)⟩
    · have : (S + 1) * (den * 2 ^ sh) ≤ m * (den * 2 ^ sh) := Nat.mul_le_mul_right _ h
      rw [Nat.add_mul] at this
      generalize den * 2 ^ sh = D at *
      constructor
      · omega
      · intro he; right; apply h3; omega
  · by_cases h0 : sh = 0
    · subst h0
      have : f.magOf p = S ∨ f.magOf p < S ∨ S < f.magOf p := by omega
      simp only [Nat.pow_zero, Nat.mul_one] at *
      rcases this with h | h | h
      · rw [h]; exact ⟨le_rfl, fun _ => .inl rfl⟩
      · have : (f.magOf p + 1) * den ≤ S * den := Nat.mul_le_mul_right _ h
        rw [Nat.add_mul] at this
        constructor
        · omega
        · intro he; right; apply h3; omega
      · have : (S + 1) * den ≤ f.magOf p * den := Nat.mul_le_mul_right _ h
        rw [Nat.add_mul] at this
        constructor
        · omega
        · intro he; right; apply h3; omega
    · have hle := hle h0
      have h4 : f.magOf p * den < 2 ^ f.fracBits * 2 ^ sh * den := Nat.mul_lt_mul_of_pos_right hm hd
      rw [show 2 ^ f.fracBits * 2 ^ sh * den = 2 ^ f.fracBits * (den * 2 ^ sh) by ring] at h4
      rcases lt_or_ge S (2 ^ f.fracBits) with h | h
      · have : (S + 1) * (den * 2 ^ sh) ≤ 2 ^ f.fracBits * (den * 2 ^ sh) := Nat.mul_le_mul_right _ h
        rw [Nat.add_mul] at this
        generalize den * 2 ^ sh = D at *
        omega
      · have : 2 ^ f.fracBits * (den * 2 ^ sh) ≤ S * (den * 2 ^ sh) := Nat.mul_le_mul_right _ h
        rcases lt_or_eq_of_le h with h' | h'
        · have h5 : (2 ^ f.fracBits + 1) * (den * 2 ^ sh) ≤ S * (den * 2 ^ sh) := Nat.mul_le_mul_right _ h'
          rw [Nat.add_mul] at h5
          generalize den * 2 ^ sh = D at *
          constructor
          · omega
          · intro he; omega
        · rw [← h'] at *
          generalize den * 2 ^ sh = D at *
          constructor
          · omega
          · intro he; omega

/-- Every pattern has a place and a significand. -/
theorem pattern_eq (f : FloatFormat) (p : Nat) : ∃ sh n, p = sh * 2 ^ f.fracBits + n ∧ n < 2 * 2 ^ f.fracBits ∧
    (sh = 0 ∨ 2 ^ f.fracBits ≤ n) := by
  have hP0 : 0 < 2 ^ f.fracBits := Nat.two_pow_pos _
  have h := Nat.div_add_mod p (2 ^ f.fracBits)
  have hm := Nat.mod_lt p hP0
  rw [Nat.mul_comm] at h
  rcases Nat.eq_zero_or_pos (p / 2 ^ f.fracBits) with h0 | h0
  · rw [h0] at h
    exact ⟨0, p, by omega, by omega, .inl rfl⟩
  · obtain ⟨e, he⟩ := Nat.exists_eq_add_of_le' h0
    refine ⟨e, 2 ^ f.fracBits + p % 2 ^ f.fracBits, ?_, by omega, .inr (by omega)⟩
    rw [he, Nat.add_mul] at h
    omega

/-- Magnitudes rise with their patterns. -/
theorem magOf_strictMono (f : FloatFormat) : StrictMono f.magOf := by
  refine strictMono_nat_of_lt_succ fun p => ?_
  obtain ⟨sh, n, rfl, h1, h2⟩ := f.pattern_eq p
  rw [f.magOf_place h1.le h2, Nat.add_assoc, f.magOf_place h1 (by omega)]
  exact Nat.mul_lt_mul_of_pos_right (Nat.lt_succ_self n) (Nat.two_pow_pos sh)

/-- A ratio that is a magnitude of the format keeps its pattern. -/
theorem pattern_of_exact (f : FloatFormat) {num den p : Nat} (hd : 0 < den) (h : num = f.magOf p * den) :
    f.place num den * 2 ^ f.fracBits + f.significand num den = p := by
  obtain ⟨h1, -⟩ := f.significand_nearest (num := num) hd p
  obtain ⟨h2, h3⟩ := f.significand_bounds (num := num) hd
  rw [← h, Int.sub_self, Int.natAbs_zero, Nat.le_zero, Int.natAbs_eq_zero, Int.sub_eq_zero, Int.natCast_inj] at h1
  rw [← f.magOf_strictMono.injective.eq_iff, f.magOf_place h2 h3]
  exact Nat.eq_of_mul_eq_mul_right hd (h1.trans h)

/-- Reading a pattern with a sign. -/
theorem unpack_withSign (f : FloatFormat) (neg : Bool) {p : Nat} (h : p ≤ f.infPattern) :
    f.unpack (f.withSign neg p) = if p = f.infPattern then .inf neg else .fin neg (f.magOf p) := by
  have hs : f.infPattern < f.signWeight := by
    simp only [infPattern, signWeight, Nat.pow_add]
    exact Nat.mul_lt_mul_of_pos_right (by have := Nat.two_pow_pos f.expBits; omega) (Nat.two_pow_pos _)
  have hp : p < f.signWeight := by omega
  have e1 : f.withSign neg p % f.signWeight = p := by
    cases neg <;> simp [withSign, Nat.mod_eq_of_lt hp]
  have e2 : (f.withSign neg p / f.signWeight % 2 == 1) = neg := by
    have h0 : 0 < f.signWeight := by omega
    cases neg
    · simp [withSign, Nat.div_eq_of_lt hp]
    · simp [withSign, Nat.add_div_left _ h0, Nat.div_eq_of_lt hp]
  simp only [unpack, e1, e2]
  split
  · rfl
  · rw [if_neg (by omega)]

/-- The value of a rounded ratio. -/
theorem unpack_roundRatio (f : FloatFormat) (neg : Bool) {num den : Nat} (hd : 0 < den) :
    f.unpack (f.roundRatio neg num den) =
      if f.place num den * 2 ^ f.fracBits + f.significand num den < f.infPattern then
        .fin neg (f.significand num den * 2 ^ f.place num den)
      else .inf neg := by
  obtain ⟨h2, h3⟩ := f.significand_bounds (num := num) hd
  rw [roundRatio_eq, unpack_withSign _ _ (Nat.min_le_right _ _)]
  split
  · rw [if_neg (by omega)]
  · rename_i h
    rw [Nat.min_eq_left (by omega), if_pos (by omega), f.magOf_place h2 h3]

/-- The pattern of a rounded ratio that is a finite number of the format. -/
theorem roundRatio_exact (f : FloatFormat) (neg : Bool) {num den p : Nat} (hd : 0 < den) (hp : p < f.infPattern)
    (h : num = f.magOf p * den) : f.roundRatio neg num den = f.withSign neg p := by
  rw [roundRatio_eq, f.pattern_of_exact hd h, Nat.min_eq_left hp.le]

/-- A rounded ratio is a pattern of the format's width. -/
theorem roundRatio_lt (f : FloatFormat) (neg : Bool) (num den : Nat) : f.roundRatio neg num den < 2 * f.signWeight := by
  have hs : f.infPattern < f.signWeight := by
    simp only [infPattern, signWeight, Nat.pow_add]
    exact Nat.mul_lt_mul_of_pos_right (by have := Nat.two_pow_pos f.expBits; omega) (Nat.two_pow_pos _)
  have := Nat.min_le_right (f.place num den * 2 ^ f.fracBits + f.significand num den) f.infPattern
  rw [roundRatio_eq]
  cases neg <;> simp only [withSign] <;> simp <;> omega

end Sys2Proof.Machine.FloatFormat

namespace Sys2Proof.Machine

/-- The value of the f32 word of a rounded ratio. -/
theorem f32Val_roundRatio (neg : Bool) {num den : Nat} (hd : 0 < den) :
    f32Val (BitVec.ofNat 32 (binary32.roundRatio neg num den)) =
      if binary32.place num den * 2 ^ 23 + binary32.significand num den < binary32.infPattern then
        .fin neg (binary32.significand num den * 2 ^ binary32.place num den)
      else .inf neg := by
  rw [f32Val, BitVec.toNat_ofNat, Nat.mod_eq_of_lt (show _ < 2 ^ 32 from binary32.roundRatio_lt neg num den)]
  exact binary32.unpack_roundRatio neg hd

/-- The value of the f64 pattern of a rounded ratio. -/
theorem f64Val_roundRatio (neg : Bool) {num den : Nat} (hd : 0 < den) :
    f64Val (BitVec.ofNat 64 (binary64.roundRatio neg num den)) =
      if binary64.place num den * 2 ^ 52 + binary64.significand num den < binary64.infPattern then
        .fin neg (binary64.significand num den * 2 ^ binary64.place num den)
      else .inf neg := by
  rw [f64Val, BitVec.toNat_ofNat, Nat.mod_eq_of_lt (show _ < 2 ^ 64 from binary64.roundRatio_lt neg num den)]
  exact binary64.unpack_roundRatio neg hd

end Sys2Proof.Machine
end

