-- ==== Sys2Proof/Laws/Memory.lean ====
section
/-! SUPPORT. What the operations of a memory do: what a read sees after a write or a fill, and that each keeps the
canonical form. -/

namespace Sys2Proof.Machine

/-! ### Cells -/

@[simp] theorem lookupCell_insertCell_same (a : Nat) (b : Byte) (l : List Host.Cell) :
    lookupCell a (insertCell a b l) = some b := by
  induction l with
  | nil => simp [insertCell, lookupCell]
  | cons c rest ih =>
    obtain ⟨k, c⟩ := c
    simp only [insertCell]
    split_ifs with h h' <;> simp [lookupCell]
    rw [if_neg (by omega), ih]

theorem lookupCell_insertCell_other {a x : Nat} (h : x ≠ a) (b : Byte) (l : List Host.Cell) :
    lookupCell x (insertCell a b l) = lookupCell x l := by
  induction l with
  | nil => simp [insertCell, lookupCell, Ne.symm h]
  | cons c rest ih =>
    obtain ⟨k, c⟩ := c
    simp only [insertCell]
    split_ifs with h1 h2
    · simp [lookupCell, Ne.symm h]
    · subst h2; simp [lookupCell, Ne.symm h]
    · simp [lookupCell, ih]

/-- A lookup sees through a filter that keeps the cells of the address looked up. -/
theorem lookupCell_filter_keep {x : Nat} (p : Host.Cell → Bool) (h : ∀ b, p (x, b) = true) (l : List Host.Cell) :
    lookupCell x (l.filter p) = lookupCell x l := by
  induction l with
  | nil => rfl
  | cons c rest ih =>
    obtain ⟨k, c⟩ := c
    by_cases hk : k = x
    · subst hk; simp [List.filter, h, lookupCell]
    · cases hp : p (k, c) <;> simp [List.filter, hp, lookupCell, hk, ih]

/-- A lookup finds nothing after a filter that drops the cells of the address looked up. -/
theorem lookupCell_filter_drop {x : Nat} (p : Host.Cell → Bool) (h : ∀ b, p (x, b) = false) (l : List Host.Cell) :
    lookupCell x (l.filter p) = none := by
  induction l with
  | nil => rfl
  | cons c rest ih =>
    obtain ⟨k, c⟩ := c
    cases hp : p (k, c)
    · simp [List.filter, hp, ih]
    · have hk : k ≠ x := by rintro rfl; simp [h] at hp
      simp [List.filter, hp, lookupCell, hk, ih]

theorem cellsRise_cons {c : Host.Cell} {l : List Host.Cell} :
    cellsRise (c :: l) = true ↔ (∀ d ∈ l, c.1 < d.1) ∧ cellsRise l = true := by
  simp [cellsRise, List.all_eq_true]

theorem mem_insertCell {a : Nat} {b : Byte} {l : List Host.Cell} {c : Host.Cell} (h : c ∈ insertCell a b l) :
    c = (a, b) ∨ c ∈ l := by
  induction l with
  | nil => simpa [insertCell] using h
  | cons d rest ih =>
    obtain ⟨k, d⟩ := d
    simp only [insertCell] at h
    split_ifs at h with h1 h2
    · simpa using h
    · rcases List.mem_cons.1 h with h | h
      · exact .inl h
      · exact .inr (List.mem_cons_of_mem _ h)
    · rcases List.mem_cons.1 h with h | h
      · exact .inr (by simp [h])
      · exact (ih h).imp id (List.mem_cons_of_mem _)

theorem cellsRise_insertCell (a : Nat) (b : Byte) {l : List Host.Cell} (h : cellsRise l = true) :
    cellsRise (insertCell a b l) = true := by
  induction l with
  | nil => simp [insertCell, cellsRise]
  | cons c rest ih =>
    obtain ⟨k, c⟩ := c
    obtain ⟨h1, h2⟩ := cellsRise_cons.1 h
    simp only [insertCell]
    split_ifs with ha ha'
    · refine cellsRise_cons.2 ⟨?_, h⟩
      intro d hd
      rcases List.mem_cons.1 hd with rfl | hd
      · exact ha
      · exact lt_trans ha (h1 d hd)
    · subst ha'; exact cellsRise_cons.2 ⟨h1, h2⟩
    · refine cellsRise_cons.2 ⟨?_, ih h2⟩
      intro d hd
      rcases mem_insertCell hd with rfl | hd
      · show k < a; omega
      · exact h1 d hd

theorem cellsRise_filter (p : Host.Cell → Bool) {l : List Host.Cell} (h : cellsRise l = true) :
    cellsRise (l.filter p) = true := by
  induction l with
  | nil => rfl
  | cons c rest ih =>
    obtain ⟨h1, h2⟩ := cellsRise_cons.1 h
    cases hp : p c
    · simpa [List.filter, hp] using ih h2
    · simp only [List.filter, hp]
      exact cellsRise_cons.2 ⟨fun d hd => h1 d (List.mem_of_mem_filter hd), ih h2⟩

/-! ### Stretches -/

theorem fillAt_filter_above {ext a : Nat} (h : ext ≤ a) (l : List Region) :
    fillAt a (l.filter (fun r => decide (ext < r.extent))) = fillAt a l := by
  induction l with
  | nil => rfl
  | cons r rest ih =>
    by_cases hr : ext < r.extent
    · simp [List.filter, hr, fillAt, ih]
    · have : ¬ a < r.extent := by omega
      simp [List.filter, hr, fillAt, this, ih]

theorem fillAt_first {a : Nat} {l : List Region} (h : ∀ r ∈ l, a < r.extent) : fillAt a l = firstFill l := by
  cases l with
  | nil => rfl
  | cons r rest => simp [fillAt, firstFill, h r (by simp)]

theorem fillAt_pushFill_below {ext a : Nat} (h : a < ext) (f : Fill) (l : List Region) :
    fillAt a (pushFill ext f l) = f := by
  simp only [pushFill]
  split_ifs with hf
  · rw [fillAt_first, hf]
    intro r hr
    have : ext < r.extent := by simpa using List.of_mem_filter hr
    omega
  · simp [fillAt, h]

theorem fillAt_pushFill_above {ext a : Nat} (h : ext ≤ a) (f : Fill) (l : List Region) :
    fillAt a (pushFill ext f l) = fillAt a l := by
  simp only [pushFill]
  split_ifs with hf
  · exact fillAt_filter_above h l
  · rw [fillAt, if_neg (by simpa using h), fillAt_filter_above h]

theorem fillsCanonical_cons {r : Region} {l : List Region} :
    fillsCanonical (r :: l) = true ↔
      0 < r.extent ∧ firstFill l ≠ r.fill ∧ (∀ q ∈ l, r.extent < q.extent) ∧ fillsCanonical l = true := by
  simp [fillsCanonical, List.all_eq_true, and_assoc]

theorem fillsCanonical_filter_above (ext : Nat) {l : List Region} (h : fillsCanonical l = true) :
    fillsCanonical (l.filter (fun r => decide (ext < r.extent))) = true := by
  induction l with
  | nil => rfl
  | cons r rest ih =>
    obtain ⟨h0, h1, h2, h3⟩ := fillsCanonical_cons.1 h
    by_cases hr : ext < r.extent
    · have hall : rest.filter (fun q => decide (ext < q.extent)) = rest :=
        List.filter_eq_self.2 (fun q hq => by have := h2 q hq; simp; omega)
      simpa [List.filter, hr, hall] using h
    · simpa [List.filter, hr] using ih h3

theorem fillsCanonical_pushFill {ext : Nat} (h0 : 0 < ext) (f : Fill) {l : List Region}
    (h : fillsCanonical l = true) : fillsCanonical (pushFill ext f l) = true := by
  simp only [pushFill]
  split_ifs with hf
  · exact fillsCanonical_filter_above ext h
  · refine fillsCanonical_cons.2 ⟨h0, hf, ?_, fillsCanonical_filter_above ext h⟩
    intro q hq
    simpa using List.of_mem_filter hq

/-! ### Bytes -/

@[simp] theorem Memory.setByte_fills (m : Memory) (a : Nat) (b : Byte) : (m.setByte a b).fills = m.fills := rfl

@[simp] theorem Memory.byte_setByte_same (m : Memory) (a : Nat) (b : Byte) : (m.setByte a b).byte a = b := by
  unfold Memory.byte Memory.setByte
  by_cases hb : m.unlisted a = some b
  · simp only [hb, if_true]
    rw [eraseCell, lookupCell_filter_drop _ (by simp)]
    unfold Memory.unlisted at hb
    split at hb <;> simp_all
  · simp [hb]

theorem Memory.byte_setByte_other (m : Memory) {a x : Nat} (h : x ≠ a) (b : Byte) :
    (m.setByte a b).byte x = m.byte x := by
  unfold Memory.byte Memory.setByte
  by_cases hb : m.unlisted a = some b
  · simp only [hb, if_true]
    rw [eraseCell, lookupCell_filter_keep _ (by simp [h])]
  · simp only [hb, if_false]
    rw [lookupCell_insertCell_other h]

theorem Memory.wf_iff (m : Memory) :
    m.wf = true ↔ cellsRise m.cells = true ∧ (∀ c ∈ m.cells, m.unlisted c.1 ≠ some c.2) ∧
      fillsCanonical m.fills = true := by
  simp only [Memory.wf, Bool.and_eq_true, List.all_eq_true, decide_eq_true_eq, and_assoc]

/-- Storing a byte keeps the canonical form. -/
theorem Memory.wf_setByte {m : Memory} (h : m.wf = true) (a : Nat) (b : Byte) : (m.setByte a b).wf = true := by
  obtain ⟨h1, h2, h3⟩ := m.wf_iff.1 h
  refine (Memory.wf_iff _).2 ⟨?_, ?_, h3⟩
  · unfold Memory.setByte
    split_ifs
    · exact cellsRise_filter _ h1
    · exact cellsRise_insertCell a b h1
  · intro c hc
    show m.unlisted c.1 ≠ some c.2
    unfold Memory.setByte at hc
    by_cases hb : m.unlisted a = some b
    · rw [if_pos hb] at hc; exact h2 c (List.mem_of_mem_filter hc)
    · rw [if_neg hb] at hc
      rcases mem_insertCell hc with rfl | hc
      · exact hb
      · exact h2 c hc

/-! ### Words -/

/-- A word is its four lanes (R75). -/
theorem word_of_lanes (v : Word) :
    v.extractLsb' 24 8 ++ v.extractLsb' 16 8 ++ v.extractLsb' 8 8 ++ v.extractLsb' 0 8 = v := by
  apply BitVec.eq_of_getLsbD_eq
  intro i hi
  simp only [BitVec.getLsbD_append, BitVec.getLsbD_extractLsb']
  by_cases h0 : i < 8
  · simp [h0]
  by_cases h1 : i < 16
  · simp [h0, show i - 8 < 8 by omega, show 8 + (i - 8) = i by omega]
  by_cases h2 : i < 24
  · simp [h0, show ¬ i - 8 < 8 by omega, show i - 8 - 8 < 8 by omega, show 16 + (i - 8 - 8) = i by omega]
  · simp [h0, show ¬ i - 8 < 8 by omega, show ¬ i - 8 - 8 < 8 by omega, show i - 8 - 8 - 8 < 8 by omega,
      show 24 + (i - 8 - 8 - 8) = i by omega]

theorem Memory.setWord_fills (m : Memory) (a : Nat) (v : Word) : (m.setWord a v).fills = m.fills := rfl

/-- A byte outside the stored word keeps its value. -/
theorem Memory.byte_setWord_other (m : Memory) {a x : Nat} (h : x < a ∨ a + 4 ≤ x) (v : Word) :
    (m.setWord a v).byte x = m.byte x := by
  unfold Memory.setWord
  rw [byte_setByte_other _ (by omega), byte_setByte_other _ (by omega), byte_setByte_other _ (by omega),
    byte_setByte_other _ (by omega)]

/-- Reading a word just stored. -/
@[simp] theorem Memory.word_setWord_same (m : Memory) (a : Nat) (v : Word) : (m.setWord a v).word a = v := by
  have h0 : (m.setWord a v).byte a = v.extractLsb' 0 8 := by
    unfold Memory.setWord
    rw [byte_setByte_other _ (by omega), byte_setByte_other _ (by omega), byte_setByte_other _ (by omega),
      byte_setByte_same]
  have h1 : (m.setWord a v).byte (a + 1) = v.extractLsb' 8 8 := by
    unfold Memory.setWord
    rw [byte_setByte_other _ (by omega), byte_setByte_other _ (by omega), byte_setByte_same]
  have h2 : (m.setWord a v).byte (a + 2) = v.extractLsb' 16 8 := by
    unfold Memory.setWord
    rw [byte_setByte_other _ (by omega), byte_setByte_same]
  have h3 : (m.setWord a v).byte (a + 3) = v.extractLsb' 24 8 := by
    unfold Memory.setWord
    rw [byte_setByte_same]
  unfold Memory.word
  rw [h0, h1, h2, h3]
  exact word_of_lanes v

/-- Two memories with the same bytes in a word hold the same word. -/
theorem Memory.word_congr {m m' : Memory} {a : Nat} (h : ∀ x, a ≤ x → x < a + 4 → m'.byte x = m.byte x) :
    m'.word a = m.word a := by
  unfold Memory.word
  rw [h a (by omega) (by omega), h (a + 1) (by omega) (by omega), h (a + 2) (by omega) (by omega),
    h (a + 3) (by omega) (by omega)]

/-- Reading a word apart from the one stored. -/
theorem Memory.word_setWord_other (m : Memory) {a x : Nat} (h : x + 4 ≤ a ∨ a + 4 ≤ x) (v : Word) :
    (m.setWord a v).word x = m.word x :=
  word_congr (fun _ h1 h2 => m.byte_setWord_other (by omega) v)

/-- Storing a word keeps the canonical form. -/
theorem Memory.wf_setWord {m : Memory} (h : m.wf = true) (a : Nat) (v : Word) : (m.setWord a v).wf = true :=
  wf_setByte (wf_setByte (wf_setByte (wf_setByte h _ _) _ _) _ _) _ _

/-! ### Fills -/

/-- A byte below the extent takes the fill. -/
theorem Memory.byte_fillBelow_below (m : Memory) {ext a : Nat} (h : a < ext) (f : Fill) :
    (m.fillBelow ext f).byte a = match f with | .zero => 0 | .free seed => Config.freeByte seed a := by
  unfold Memory.fillBelow
  rw [if_neg (by omega)]
  have e1 := lookupCell_filter_drop (x := a) (fun c => decide (ext ≤ c.1)) (fun _ => decide_eq_false (by omega)) m.cells
  have e2 := fillAt_pushFill_below h f m.fills
  unfold Memory.byte
  cases f <;> simp only [e1, e2]

/-- A byte at or above the extent keeps its value. -/
theorem Memory.byte_fillBelow_above (m : Memory) {ext a : Nat} (h : ext ≤ a) (f : Fill) :
    (m.fillBelow ext f).byte a = m.byte a := by
  unfold Memory.fillBelow
  split_ifs with h0
  · rfl
  · unfold Memory.byte
    simp only
    rw [lookupCell_filter_keep _ (by simp [h]), fillAt_pushFill_above h]

/-- A word below the extent of a zero fill is zero. -/
theorem Memory.word_fillBelow_zero (m : Memory) {ext a : Nat} (h : a + 4 ≤ ext) :
    (m.fillBelow ext .zero).word a = 0 := by
  unfold Memory.word
  rw [byte_fillBelow_below m (by omega), byte_fillBelow_below m (by omega), byte_fillBelow_below m (by omega),
    byte_fillBelow_below m (by omega)]
  simp only
  decide

/-- A word at or above the extent keeps its value. -/
theorem Memory.word_fillBelow_above (m : Memory) {ext a : Nat} (h : ext ≤ a) (f : Fill) :
    (m.fillBelow ext f).word a = m.word a :=
  word_congr (fun _ h1 _ => m.byte_fillBelow_above (le_trans h h1) f)

/-- Filling keeps the canonical form. -/
theorem Memory.wf_fillBelow {m : Memory} (h : m.wf = true) (ext : Nat) (f : Fill) : (m.fillBelow ext f).wf = true := by
  unfold Memory.fillBelow
  split_ifs with h0
  · exact h
  · obtain ⟨h1, h2, h3⟩ := m.wf_iff.1 h
    refine (Memory.wf_iff _).2 ⟨cellsRise_filter _ h1, ?_, fillsCanonical_pushFill (by omega) f h3⟩
    intro c hc
    have hge : ext ≤ c.1 := by simpa using List.of_mem_filter hc
    have := h2 c (List.mem_of_mem_filter hc)
    unfold Memory.unlisted at this ⊢
    simpa only [fillAt_pushFill_above hge] using this

end Sys2Proof.Machine
end

