-- ==== Sys2Proof/Laws/State.lean ====
section
/-! SUPPORT. One lemma for each field and each named update of the state, so that no proof unfolds an update. -/

namespace Sys2Proof.Machine

section setDelayWord
/-! Fields after `B[i] <- v`. -/
variable (s : State) (i : Nat) (v : Word)

@[simp] theorem setDelayWord_busy : (s.setDelayWord i v).busy = s.busy := rfl
@[simp] theorem setDelayWord_done : (s.setDelayWord i v).done = s.done := rfl
@[simp] theorem setDelayWord_ready : (s.setDelayWord i v).ready = s.ready := rfl
@[simp] theorem setDelayWord_err : (s.setDelayWord i v).err = s.err := rfl
@[simp] theorem setDelayWord_errcode : (s.setDelayWord i v).errcode = s.errcode := rfl
@[simp] theorem setDelayWord_irqEn : (s.setDelayWord i v).irqEn = s.irqEn := rfl
@[simp] theorem setDelayWord_arg : (s.setDelayWord i v).arg = s.arg := rfl
@[simp] theorem setDelayWord_rate : (s.setDelayWord i v).rate = s.rate := rfl
@[simp] theorem setDelayWord_wet : (s.setDelayWord i v).wet = s.wet := rfl
@[simp] theorem setDelayWord_dry : (s.setDelayWord i v).dry = s.dry := rfl
@[simp] theorem setDelayWord_master : (s.setDelayWord i v).master = s.master := rfl
@[simp] theorem setDelayWord_preset : (s.setDelayWord i v).preset = s.preset := rfl
@[simp] theorem setDelayWord_crush : (s.setDelayWord i v).crush = s.crush := rfl
@[simp] theorem setDelayWord_mono : (s.setDelayWord i v).mono = s.mono := rfl
@[simp] theorem setDelayWord_buflen : (s.setDelayWord i v).buflen = s.buflen := rfl
@[simp] theorem setDelayWord_cursor : (s.setDelayWord i v).cursor = s.cursor := rfl
@[simp] theorem setDelayWord_derived : (s.setDelayWord i v).derived = s.derived := rfl
@[simp] theorem setDelayWord_pending : (s.setDelayWord i v).pending = s.pending := rfl
@[simp] theorem setDelayWord_samples : (s.setDelayWord i v).samples = s.samples := rfl
@[simp] theorem setDelayWord_delay : (s.setDelayWord i v).delay = s.delay.setWord (4 * i) v := rfl
@[simp] theorem setDelayWord_hazard : (s.setDelayWord i v).hazard = s.hazard := rfl
@[simp] theorem setDelayWord_resetLine : (s.setDelayWord i v).resetLine = s.resetLine := rfl
@[simp] theorem setDelayWord_schedule : (s.setDelayWord i v).schedule = s.schedule := rfl
@[simp] theorem setDelayWord_response : (s.setDelayWord i v).response = s.response := rfl
@[simp] theorem setDelayWord_freeCount : (s.setDelayWord i v).freeCount = s.freeCount := rfl
@[simp] theorem setDelayWord_params : (s.setDelayWord i v).params = s.params := rfl

end setDelayWord

section setSample
/-! Fields after `SL[n] <- v` or `SR[n] <- v`. -/
variable (s : State) (c : Channel) (n : Nat) (v : Word)

@[simp] theorem setSample_busy : (s.setSample c n v).busy = s.busy := rfl
@[simp] theorem setSample_done : (s.setSample c n v).done = s.done := rfl
@[simp] theorem setSample_ready : (s.setSample c n v).ready = s.ready := rfl
@[simp] theorem setSample_err : (s.setSample c n v).err = s.err := rfl
@[simp] theorem setSample_errcode : (s.setSample c n v).errcode = s.errcode := rfl
@[simp] theorem setSample_irqEn : (s.setSample c n v).irqEn = s.irqEn := rfl
@[simp] theorem setSample_arg : (s.setSample c n v).arg = s.arg := rfl
@[simp] theorem setSample_rate : (s.setSample c n v).rate = s.rate := rfl
@[simp] theorem setSample_wet : (s.setSample c n v).wet = s.wet := rfl
@[simp] theorem setSample_dry : (s.setSample c n v).dry = s.dry := rfl
@[simp] theorem setSample_master : (s.setSample c n v).master = s.master := rfl
@[simp] theorem setSample_preset : (s.setSample c n v).preset = s.preset := rfl
@[simp] theorem setSample_crush : (s.setSample c n v).crush = s.crush := rfl
@[simp] theorem setSample_mono : (s.setSample c n v).mono = s.mono := rfl
@[simp] theorem setSample_buflen : (s.setSample c n v).buflen = s.buflen := rfl
@[simp] theorem setSample_cursor : (s.setSample c n v).cursor = s.cursor := rfl
@[simp] theorem setSample_derived : (s.setSample c n v).derived = s.derived := rfl
@[simp] theorem setSample_pending : (s.setSample c n v).pending = s.pending := rfl
@[simp] theorem setSample_samples : (s.setSample c n v).samples = s.samples.setWord (sampleOffset c n) v := rfl
@[simp] theorem setSample_delay : (s.setSample c n v).delay = s.delay := rfl
@[simp] theorem setSample_hazard : (s.setSample c n v).hazard = s.hazard := rfl
@[simp] theorem setSample_resetLine : (s.setSample c n v).resetLine = s.resetLine := rfl
@[simp] theorem setSample_schedule : (s.setSample c n v).schedule = s.schedule := rfl
@[simp] theorem setSample_response : (s.setSample c n v).response = s.response := rfl
@[simp] theorem setSample_freeCount : (s.setSample c n v).freeCount = s.freeCount := rfl
@[simp] theorem setSample_params : (s.setSample c n v).params = s.params := rfl

end setSample

section zeroDelay
/-! Fields after zeroing the buffer. -/
variable (s : State)

@[simp] theorem zeroDelay_busy : (s.zeroDelay).busy = s.busy := rfl
@[simp] theorem zeroDelay_done : (s.zeroDelay).done = s.done := rfl
@[simp] theorem zeroDelay_ready : (s.zeroDelay).ready = s.ready := rfl
@[simp] theorem zeroDelay_err : (s.zeroDelay).err = s.err := rfl
@[simp] theorem zeroDelay_errcode : (s.zeroDelay).errcode = s.errcode := rfl
@[simp] theorem zeroDelay_irqEn : (s.zeroDelay).irqEn = s.irqEn := rfl
@[simp] theorem zeroDelay_arg : (s.zeroDelay).arg = s.arg := rfl
@[simp] theorem zeroDelay_rate : (s.zeroDelay).rate = s.rate := rfl
@[simp] theorem zeroDelay_wet : (s.zeroDelay).wet = s.wet := rfl
@[simp] theorem zeroDelay_dry : (s.zeroDelay).dry = s.dry := rfl
@[simp] theorem zeroDelay_master : (s.zeroDelay).master = s.master := rfl
@[simp] theorem zeroDelay_preset : (s.zeroDelay).preset = s.preset := rfl
@[simp] theorem zeroDelay_crush : (s.zeroDelay).crush = s.crush := rfl
@[simp] theorem zeroDelay_mono : (s.zeroDelay).mono = s.mono := rfl
@[simp] theorem zeroDelay_buflen : (s.zeroDelay).buflen = s.buflen := rfl
@[simp] theorem zeroDelay_cursor : (s.zeroDelay).cursor = s.cursor := rfl
@[simp] theorem zeroDelay_derived : (s.zeroDelay).derived = s.derived := rfl
@[simp] theorem zeroDelay_pending : (s.zeroDelay).pending = s.pending := rfl
@[simp] theorem zeroDelay_samples : (s.zeroDelay).samples = s.samples := rfl
@[simp] theorem zeroDelay_delay : (s.zeroDelay).delay = s.delay.fillBelow (4 * s.buflen.toNat) .zero := rfl
@[simp] theorem zeroDelay_hazard : (s.zeroDelay).hazard = s.hazard := rfl
@[simp] theorem zeroDelay_resetLine : (s.zeroDelay).resetLine = s.resetLine := rfl
@[simp] theorem zeroDelay_schedule : (s.zeroDelay).schedule = s.schedule := rfl
@[simp] theorem zeroDelay_response : (s.zeroDelay).response = s.response := rfl
@[simp] theorem zeroDelay_freeCount : (s.zeroDelay).freeCount = s.freeCount := rfl
@[simp] theorem zeroDelay_params : (s.zeroDelay).params = s.params := rfl

end zeroDelay

section acceptWord
/-! Fields after accepting a command word. -/
variable (s : State) (w : Word)

@[simp] theorem acceptWord_busy : (s.acceptWord w).busy = true := rfl
@[simp] theorem acceptWord_done : (s.acceptWord w).done = s.done := rfl
@[simp] theorem acceptWord_ready : (s.acceptWord w).ready = s.ready := rfl
@[simp] theorem acceptWord_err : (s.acceptWord w).err = s.err := rfl
@[simp] theorem acceptWord_errcode : (s.acceptWord w).errcode = s.errcode := rfl
@[simp] theorem acceptWord_irqEn : (s.acceptWord w).irqEn = s.irqEn := rfl
@[simp] theorem acceptWord_arg : (s.acceptWord w).arg = s.arg := rfl
@[simp] theorem acceptWord_rate : (s.acceptWord w).rate = s.rate := rfl
@[simp] theorem acceptWord_wet : (s.acceptWord w).wet = s.wet := rfl
@[simp] theorem acceptWord_dry : (s.acceptWord w).dry = s.dry := rfl
@[simp] theorem acceptWord_master : (s.acceptWord w).master = s.master := rfl
@[simp] theorem acceptWord_preset : (s.acceptWord w).preset = s.preset := rfl
@[simp] theorem acceptWord_crush : (s.acceptWord w).crush = s.crush := rfl
@[simp] theorem acceptWord_mono : (s.acceptWord w).mono = s.mono := rfl
@[simp] theorem acceptWord_buflen : (s.acceptWord w).buflen = s.buflen := rfl
@[simp] theorem acceptWord_cursor : (s.acceptWord w).cursor = s.cursor := rfl
@[simp] theorem acceptWord_derived : (s.acceptWord w).derived = s.derived := rfl
@[simp] theorem acceptWord_pending : (s.acceptWord w).pending = ⟨w, s.arg⟩ := rfl
@[simp] theorem acceptWord_samples : (s.acceptWord w).samples = s.samples := rfl
@[simp] theorem acceptWord_delay : (s.acceptWord w).delay = s.delay := rfl
@[simp] theorem acceptWord_hazard : (s.acceptWord w).hazard = s.hazard := rfl
@[simp] theorem acceptWord_resetLine : (s.acceptWord w).resetLine = s.resetLine := rfl
@[simp] theorem acceptWord_schedule : (s.acceptWord w).schedule = s.schedule := rfl
@[simp] theorem acceptWord_response : (s.acceptWord w).response = s.response := rfl
@[simp] theorem acceptWord_freeCount : (s.acceptWord w).freeCount = s.freeCount := rfl
@[simp] theorem acceptWord_params : (s.acceptWord w).params = s.params := rfl

end acceptWord

section dropWord
/-! Fields after dropping a command word. -/
variable (s : State)

@[simp] theorem dropWord_busy : (s.dropWord).busy = s.busy := rfl
@[simp] theorem dropWord_done : (s.dropWord).done = s.done := rfl
@[simp] theorem dropWord_ready : (s.dropWord).ready = s.ready := rfl
@[simp] theorem dropWord_err : (s.dropWord).err = true := rfl
@[simp] theorem dropWord_errcode : (s.dropWord).errcode = .busy := rfl
@[simp] theorem dropWord_irqEn : (s.dropWord).irqEn = s.irqEn := rfl
@[simp] theorem dropWord_arg : (s.dropWord).arg = s.arg := rfl
@[simp] theorem dropWord_rate : (s.dropWord).rate = s.rate := rfl
@[simp] theorem dropWord_wet : (s.dropWord).wet = s.wet := rfl
@[simp] theorem dropWord_dry : (s.dropWord).dry = s.dry := rfl
@[simp] theorem dropWord_master : (s.dropWord).master = s.master := rfl
@[simp] theorem dropWord_preset : (s.dropWord).preset = s.preset := rfl
@[simp] theorem dropWord_crush : (s.dropWord).crush = s.crush := rfl
@[simp] theorem dropWord_mono : (s.dropWord).mono = s.mono := rfl
@[simp] theorem dropWord_buflen : (s.dropWord).buflen = s.buflen := rfl
@[simp] theorem dropWord_cursor : (s.dropWord).cursor = s.cursor := rfl
@[simp] theorem dropWord_derived : (s.dropWord).derived = s.derived := rfl
@[simp] theorem dropWord_pending : (s.dropWord).pending = s.pending := rfl
@[simp] theorem dropWord_samples : (s.dropWord).samples = s.samples := rfl
@[simp] theorem dropWord_delay : (s.dropWord).delay = s.delay := rfl
@[simp] theorem dropWord_hazard : (s.dropWord).hazard = s.hazard := rfl
@[simp] theorem dropWord_resetLine : (s.dropWord).resetLine = s.resetLine := rfl
@[simp] theorem dropWord_schedule : (s.dropWord).schedule = s.schedule := rfl
@[simp] theorem dropWord_response : (s.dropWord).response = s.response := rfl
@[simp] theorem dropWord_freeCount : (s.dropWord).freeCount = s.freeCount := rfl
@[simp] theorem dropWord_params : (s.dropWord).params = s.params := rfl

end dropWord

section complete
/-! Fields after `complete()`. -/
variable (s : State)

@[simp] theorem complete_busy : (s.complete).busy = false := rfl
@[simp] theorem complete_done : (s.complete).done = true := rfl
@[simp] theorem complete_ready : (s.complete).ready = s.ready := rfl
@[simp] theorem complete_err : (s.complete).err = s.err := rfl
@[simp] theorem complete_errcode : (s.complete).errcode = s.errcode := rfl
@[simp] theorem complete_irqEn : (s.complete).irqEn = s.irqEn := rfl
@[simp] theorem complete_arg : (s.complete).arg = s.arg := rfl
@[simp] theorem complete_rate : (s.complete).rate = s.rate := rfl
@[simp] theorem complete_wet : (s.complete).wet = s.wet := rfl
@[simp] theorem complete_dry : (s.complete).dry = s.dry := rfl
@[simp] theorem complete_master : (s.complete).master = s.master := rfl
@[simp] theorem complete_preset : (s.complete).preset = s.preset := rfl
@[simp] theorem complete_crush : (s.complete).crush = s.crush := rfl
@[simp] theorem complete_mono : (s.complete).mono = s.mono := rfl
@[simp] theorem complete_buflen : (s.complete).buflen = s.buflen := rfl
@[simp] theorem complete_cursor : (s.complete).cursor = s.cursor := rfl
@[simp] theorem complete_derived : (s.complete).derived = s.derived := rfl
@[simp] theorem complete_pending : (s.complete).pending = s.pending := rfl
@[simp] theorem complete_samples : (s.complete).samples = s.samples := rfl
@[simp] theorem complete_delay : (s.complete).delay = s.delay := rfl
@[simp] theorem complete_hazard : (s.complete).hazard = s.hazard := rfl
@[simp] theorem complete_resetLine : (s.complete).resetLine = s.resetLine := rfl
@[simp] theorem complete_schedule : (s.complete).schedule = s.schedule := rfl
@[simp] theorem complete_response : (s.complete).response = s.response := rfl
@[simp] theorem complete_freeCount : (s.complete).freeCount = s.freeCount := rfl
@[simp] theorem complete_params : (s.complete).params = s.params := rfl

end complete

section raiseError
/-! Fields after `raise Error(c)`. -/
variable (s : State) (c : ErrCode)

@[simp] theorem raiseError_busy : (s.raiseError c).busy = false := rfl
@[simp] theorem raiseError_done : (s.raiseError c).done = true := rfl
@[simp] theorem raiseError_ready : (s.raiseError c).ready = s.ready := rfl
@[simp] theorem raiseError_err : (s.raiseError c).err = true := rfl
@[simp] theorem raiseError_errcode : (s.raiseError c).errcode = c := rfl
@[simp] theorem raiseError_irqEn : (s.raiseError c).irqEn = s.irqEn := rfl
@[simp] theorem raiseError_arg : (s.raiseError c).arg = s.arg := rfl
@[simp] theorem raiseError_rate : (s.raiseError c).rate = s.rate := rfl
@[simp] theorem raiseError_wet : (s.raiseError c).wet = s.wet := rfl
@[simp] theorem raiseError_dry : (s.raiseError c).dry = s.dry := rfl
@[simp] theorem raiseError_master : (s.raiseError c).master = s.master := rfl
@[simp] theorem raiseError_preset : (s.raiseError c).preset = s.preset := rfl
@[simp] theorem raiseError_crush : (s.raiseError c).crush = s.crush := rfl
@[simp] theorem raiseError_mono : (s.raiseError c).mono = s.mono := rfl
@[simp] theorem raiseError_buflen : (s.raiseError c).buflen = s.buflen := rfl
@[simp] theorem raiseError_cursor : (s.raiseError c).cursor = s.cursor := rfl
@[simp] theorem raiseError_derived : (s.raiseError c).derived = s.derived := rfl
@[simp] theorem raiseError_pending : (s.raiseError c).pending = s.pending := rfl
@[simp] theorem raiseError_samples : (s.raiseError c).samples = s.samples := rfl
@[simp] theorem raiseError_delay : (s.raiseError c).delay = s.delay := rfl
@[simp] theorem raiseError_hazard : (s.raiseError c).hazard = s.hazard := rfl
@[simp] theorem raiseError_resetLine : (s.raiseError c).resetLine = s.resetLine := rfl
@[simp] theorem raiseError_schedule : (s.raiseError c).schedule = s.schedule := rfl
@[simp] theorem raiseError_response : (s.raiseError c).response = s.response := rfl
@[simp] theorem raiseError_freeCount : (s.raiseError c).freeCount = s.freeCount := rfl
@[simp] theorem raiseError_params : (s.raiseError c).params = s.params := rfl

end raiseError

section scramble
/-! Fields after the memories are left unspecified. -/
variable (s : State)

@[simp] theorem scramble_busy : (s.scramble).busy = s.busy := rfl
@[simp] theorem scramble_done : (s.scramble).done = s.done := rfl
@[simp] theorem scramble_ready : (s.scramble).ready = s.ready := rfl
@[simp] theorem scramble_err : (s.scramble).err = s.err := rfl
@[simp] theorem scramble_errcode : (s.scramble).errcode = s.errcode := rfl
@[simp] theorem scramble_irqEn : (s.scramble).irqEn = s.irqEn := rfl
@[simp] theorem scramble_arg : (s.scramble).arg = s.arg := rfl
@[simp] theorem scramble_rate : (s.scramble).rate = s.rate := rfl
@[simp] theorem scramble_wet : (s.scramble).wet = s.wet := rfl
@[simp] theorem scramble_dry : (s.scramble).dry = s.dry := rfl
@[simp] theorem scramble_master : (s.scramble).master = s.master := rfl
@[simp] theorem scramble_preset : (s.scramble).preset = s.preset := rfl
@[simp] theorem scramble_crush : (s.scramble).crush = s.crush := rfl
@[simp] theorem scramble_mono : (s.scramble).mono = s.mono := rfl
@[simp] theorem scramble_buflen : (s.scramble).buflen = s.buflen := rfl
@[simp] theorem scramble_cursor : (s.scramble).cursor = s.cursor := rfl
@[simp] theorem scramble_derived : (s.scramble).derived = s.derived := rfl
@[simp] theorem scramble_pending : (s.scramble).pending = s.pending := rfl
@[simp] theorem scramble_samples :
    (s.scramble).samples = s.samples.fillBelow Config.windowBytes (.free s.freeCount) := rfl
@[simp] theorem scramble_delay :
    (s.scramble).delay = s.delay.fillBelow (4 * s.buflen.toNat) (.free (s.freeCount + 1)) := rfl
@[simp] theorem scramble_hazard : (s.scramble).hazard = false := rfl
@[simp] theorem scramble_resetLine : (s.scramble).resetLine = s.resetLine := rfl
@[simp] theorem scramble_schedule : (s.scramble).schedule = s.schedule := rfl
@[simp] theorem scramble_response : (s.scramble).response = s.response := rfl
@[simp] theorem scramble_freeCount : (s.scramble).freeCount = s.freeCount + 2 := rfl
@[simp] theorem scramble_params : (s.scramble).params = s.params := rfl

end scramble

section forget
/-! Fields after a reset leaves the memories unspecified. -/
variable (s : State)

@[simp] theorem forget_busy : (s.forget).busy = s.busy := rfl
@[simp] theorem forget_done : (s.forget).done = s.done := rfl
@[simp] theorem forget_ready : (s.forget).ready = s.ready := rfl
@[simp] theorem forget_err : (s.forget).err = s.err := rfl
@[simp] theorem forget_errcode : (s.forget).errcode = s.errcode := rfl
@[simp] theorem forget_irqEn : (s.forget).irqEn = s.irqEn := rfl
@[simp] theorem forget_arg : (s.forget).arg = s.arg := rfl
@[simp] theorem forget_rate : (s.forget).rate = s.rate := rfl
@[simp] theorem forget_wet : (s.forget).wet = s.wet := rfl
@[simp] theorem forget_dry : (s.forget).dry = s.dry := rfl
@[simp] theorem forget_master : (s.forget).master = s.master := rfl
@[simp] theorem forget_preset : (s.forget).preset = s.preset := rfl
@[simp] theorem forget_crush : (s.forget).crush = s.crush := rfl
@[simp] theorem forget_mono : (s.forget).mono = s.mono := rfl
@[simp] theorem forget_buflen : (s.forget).buflen = s.buflen := rfl
@[simp] theorem forget_cursor : (s.forget).cursor = s.cursor := rfl
@[simp] theorem forget_derived : (s.forget).derived = s.derived := rfl
@[simp] theorem forget_pending : (s.forget).pending = s.pending := rfl
@[simp] theorem forget_samples :
    (s.forget).samples = s.samples.fillBelow Config.windowBytes (.free s.freeCount) := rfl
@[simp] theorem forget_delay :
    (s.forget).delay = s.delay.fillBelow (4 * Config.bufCap) (.free (s.freeCount + 1)) := rfl
@[simp] theorem forget_hazard : (s.forget).hazard = s.hazard := rfl
@[simp] theorem forget_resetLine : (s.forget).resetLine = s.resetLine := rfl
@[simp] theorem forget_schedule : (s.forget).schedule = s.schedule := rfl
@[simp] theorem forget_response : (s.forget).response = s.response := rfl
@[simp] theorem forget_freeCount : (s.forget).freeCount = s.freeCount + 2 := rfl
@[simp] theorem forget_params : (s.forget).params = s.params := rfl

end forget

section loadPreset
/-! Fields after `loadPreset(i)`. -/
variable (s : State) (i : Fin 10)

@[simp] theorem loadPreset_busy : (s.loadPreset i).busy = s.busy := rfl
@[simp] theorem loadPreset_done : (s.loadPreset i).done = s.done := rfl
@[simp] theorem loadPreset_ready : (s.loadPreset i).ready = s.ready := rfl
@[simp] theorem loadPreset_err : (s.loadPreset i).err = s.err := rfl
@[simp] theorem loadPreset_errcode : (s.loadPreset i).errcode = s.errcode := rfl
@[simp] theorem loadPreset_irqEn : (s.loadPreset i).irqEn = s.irqEn := rfl
@[simp] theorem loadPreset_arg : (s.loadPreset i).arg = s.arg := rfl
@[simp] theorem loadPreset_rate : (s.loadPreset i).rate = s.rate := rfl
@[simp] theorem loadPreset_wet : (s.loadPreset i).wet = s.wet := rfl
@[simp] theorem loadPreset_dry : (s.loadPreset i).dry = s.dry := rfl
@[simp] theorem loadPreset_master : (s.loadPreset i).master = s.master := rfl
@[simp] theorem loadPreset_preset : (s.loadPreset i).preset = s.preset := rfl
@[simp] theorem loadPreset_crush : (s.loadPreset i).crush = s.crush := rfl
@[simp] theorem loadPreset_mono : (s.loadPreset i).mono = s.mono := rfl
@[simp] theorem loadPreset_buflen : (s.loadPreset i).buflen = s.buflen := rfl
@[simp] theorem loadPreset_cursor : (s.loadPreset i).cursor = s.cursor := rfl
@[simp] theorem loadPreset_derived : (s.loadPreset i).derived = derive s.params (s.params.presetAt i) s.rate := rfl
@[simp] theorem loadPreset_pending : (s.loadPreset i).pending = s.pending := rfl
@[simp] theorem loadPreset_samples : (s.loadPreset i).samples = s.samples := rfl
@[simp] theorem loadPreset_delay : (s.loadPreset i).delay = s.delay.fillBelow (4 * s.buflen.toNat) .zero := rfl
@[simp] theorem loadPreset_hazard : (s.loadPreset i).hazard = s.hazard := rfl
@[simp] theorem loadPreset_resetLine : (s.loadPreset i).resetLine = s.resetLine := rfl
@[simp] theorem loadPreset_schedule : (s.loadPreset i).schedule = s.schedule := rfl
@[simp] theorem loadPreset_response : (s.loadPreset i).response = s.response := rfl
@[simp] theorem loadPreset_freeCount : (s.loadPreset i).freeCount = s.freeCount := rfl
@[simp] theorem loadPreset_params : (s.loadPreset i).params = s.params := rfl

end loadPreset

section initEngine
/-! Fields after what INIT does with an accepted rate. -/
variable (s : State) (r : Word)

@[simp] theorem initEngine_busy : (s.initEngine r).busy = s.busy := rfl
@[simp] theorem initEngine_done : (s.initEngine r).done = s.done := rfl
@[simp] theorem initEngine_ready : (s.initEngine r).ready = true := rfl
@[simp] theorem initEngine_err : (s.initEngine r).err = s.err := rfl
@[simp] theorem initEngine_errcode : (s.initEngine r).errcode = s.errcode := rfl
@[simp] theorem initEngine_irqEn : (s.initEngine r).irqEn = s.irqEn := rfl
@[simp] theorem initEngine_arg : (s.initEngine r).arg = s.arg := rfl
@[simp] theorem initEngine_rate : (s.initEngine r).rate = r := rfl
@[simp] theorem initEngine_wet : (s.initEngine r).wet = s.wet := rfl
@[simp] theorem initEngine_dry : (s.initEngine r).dry = s.dry := rfl
@[simp] theorem initEngine_master : (s.initEngine r).master = s.master := rfl
@[simp] theorem initEngine_preset : (s.initEngine r).preset = s.preset := rfl
@[simp] theorem initEngine_crush : (s.initEngine r).crush = s.crush := rfl
@[simp] theorem initEngine_mono : (s.initEngine r).mono = s.mono := rfl
@[simp] theorem initEngine_buflen : (s.initEngine r).buflen = BitVec.ofNat 32 (bufferLength r) := rfl
@[simp] theorem initEngine_cursor : (s.initEngine r).cursor = 0 := rfl
@[simp] theorem initEngine_derived : (s.initEngine r).derived = derive s.params (s.params.presetAt s.preset) r := rfl
@[simp] theorem initEngine_pending : (s.initEngine r).pending = s.pending := rfl
@[simp] theorem initEngine_samples : (s.initEngine r).samples = s.samples := rfl
@[simp] theorem initEngine_delay :
    (s.initEngine r).delay = s.delay.fillBelow (4 * (BitVec.ofNat 32 (bufferLength r)).toNat) .zero := rfl
@[simp] theorem initEngine_hazard : (s.initEngine r).hazard = s.hazard := rfl
@[simp] theorem initEngine_resetLine : (s.initEngine r).resetLine = s.resetLine := rfl
@[simp] theorem initEngine_schedule : (s.initEngine r).schedule = s.schedule := rfl
@[simp] theorem initEngine_response : (s.initEngine r).response = s.response := rfl
@[simp] theorem initEngine_freeCount : (s.initEngine r).freeCount = s.freeCount := rfl
@[simp] theorem initEngine_params : (s.initEngine r).params = s.params := rfl

end initEngine

section advanceCursor
/-! Fields after the cursor's advance. -/
variable (s : State)

@[simp] theorem advanceCursor_busy : (s.advanceCursor).busy = s.busy := rfl
@[simp] theorem advanceCursor_done : (s.advanceCursor).done = s.done := rfl
@[simp] theorem advanceCursor_ready : (s.advanceCursor).ready = s.ready := rfl
@[simp] theorem advanceCursor_err : (s.advanceCursor).err = s.err := rfl
@[simp] theorem advanceCursor_errcode : (s.advanceCursor).errcode = s.errcode := rfl
@[simp] theorem advanceCursor_irqEn : (s.advanceCursor).irqEn = s.irqEn := rfl
@[simp] theorem advanceCursor_arg : (s.advanceCursor).arg = s.arg := rfl
@[simp] theorem advanceCursor_rate : (s.advanceCursor).rate = s.rate := rfl
@[simp] theorem advanceCursor_wet : (s.advanceCursor).wet = s.wet := rfl
@[simp] theorem advanceCursor_dry : (s.advanceCursor).dry = s.dry := rfl
@[simp] theorem advanceCursor_master : (s.advanceCursor).master = s.master := rfl
@[simp] theorem advanceCursor_preset : (s.advanceCursor).preset = s.preset := rfl
@[simp] theorem advanceCursor_crush : (s.advanceCursor).crush = s.crush := rfl
@[simp] theorem advanceCursor_mono : (s.advanceCursor).mono = s.mono := rfl
@[simp] theorem advanceCursor_buflen : (s.advanceCursor).buflen = s.buflen := rfl
@[simp] theorem advanceCursor_cursor :
    (s.advanceCursor).cursor = BitVec.ofNat 32 (tapIndex s.buflen.toNat s.cursor.toNat 1 0) := rfl
@[simp] theorem advanceCursor_derived : (s.advanceCursor).derived = s.derived := rfl
@[simp] theorem advanceCursor_pending : (s.advanceCursor).pending = s.pending := rfl
@[simp] theorem advanceCursor_samples : (s.advanceCursor).samples = s.samples := rfl
@[simp] theorem advanceCursor_delay : (s.advanceCursor).delay = s.delay := rfl
@[simp] theorem advanceCursor_hazard : (s.advanceCursor).hazard = s.hazard := rfl
@[simp] theorem advanceCursor_resetLine : (s.advanceCursor).resetLine = s.resetLine := rfl
@[simp] theorem advanceCursor_schedule : (s.advanceCursor).schedule = s.schedule := rfl
@[simp] theorem advanceCursor_response : (s.advanceCursor).response = s.response := rfl
@[simp] theorem advanceCursor_freeCount : (s.advanceCursor).freeCount = s.freeCount := rfl
@[simp] theorem advanceCursor_params : (s.advanceCursor).params = s.params := rfl

end advanceCursor

section nextEpoch
/-! Fields after the next epoch of free values. -/
variable (s : State)

@[simp] theorem nextEpoch_busy : (s.nextEpoch).busy = s.busy := rfl
@[simp] theorem nextEpoch_done : (s.nextEpoch).done = s.done := rfl
@[simp] theorem nextEpoch_ready : (s.nextEpoch).ready = s.ready := rfl
@[simp] theorem nextEpoch_err : (s.nextEpoch).err = s.err := rfl
@[simp] theorem nextEpoch_errcode : (s.nextEpoch).errcode = s.errcode := rfl
@[simp] theorem nextEpoch_irqEn : (s.nextEpoch).irqEn = s.irqEn := rfl
@[simp] theorem nextEpoch_arg : (s.nextEpoch).arg = s.arg := rfl
@[simp] theorem nextEpoch_rate : (s.nextEpoch).rate = s.rate := rfl
@[simp] theorem nextEpoch_wet : (s.nextEpoch).wet = s.wet := rfl
@[simp] theorem nextEpoch_dry : (s.nextEpoch).dry = s.dry := rfl
@[simp] theorem nextEpoch_master : (s.nextEpoch).master = s.master := rfl
@[simp] theorem nextEpoch_preset : (s.nextEpoch).preset = s.preset := rfl
@[simp] theorem nextEpoch_crush : (s.nextEpoch).crush = s.crush := rfl
@[simp] theorem nextEpoch_mono : (s.nextEpoch).mono = s.mono := rfl
@[simp] theorem nextEpoch_buflen : (s.nextEpoch).buflen = s.buflen := rfl
@[simp] theorem nextEpoch_cursor : (s.nextEpoch).cursor = s.cursor := rfl
@[simp] theorem nextEpoch_derived : (s.nextEpoch).derived = s.derived := rfl
@[simp] theorem nextEpoch_pending : (s.nextEpoch).pending = s.pending := rfl
@[simp] theorem nextEpoch_samples : (s.nextEpoch).samples = s.samples := rfl
@[simp] theorem nextEpoch_delay : (s.nextEpoch).delay = s.delay := rfl
@[simp] theorem nextEpoch_hazard : (s.nextEpoch).hazard = s.hazard := rfl
@[simp] theorem nextEpoch_resetLine : (s.nextEpoch).resetLine = s.resetLine := rfl
@[simp] theorem nextEpoch_schedule : (s.nextEpoch).schedule = s.schedule := rfl
@[simp] theorem nextEpoch_response : (s.nextEpoch).response = s.response := rfl
@[simp] theorem nextEpoch_freeCount : (s.nextEpoch).freeCount = s.freeCount + 1 := rfl
@[simp] theorem nextEpoch_params : (s.nextEpoch).params = s.params := rfl

end nextEpoch

section answer
/-! Fields after answering a read. -/
variable (s : State) (v : Word)

@[simp] theorem answer_busy : (s.answer v).busy = s.busy := rfl
@[simp] theorem answer_done : (s.answer v).done = s.done := rfl
@[simp] theorem answer_ready : (s.answer v).ready = s.ready := rfl
@[simp] theorem answer_err : (s.answer v).err = s.err := rfl
@[simp] theorem answer_errcode : (s.answer v).errcode = s.errcode := rfl
@[simp] theorem answer_irqEn : (s.answer v).irqEn = s.irqEn := rfl
@[simp] theorem answer_arg : (s.answer v).arg = s.arg := rfl
@[simp] theorem answer_rate : (s.answer v).rate = s.rate := rfl
@[simp] theorem answer_wet : (s.answer v).wet = s.wet := rfl
@[simp] theorem answer_dry : (s.answer v).dry = s.dry := rfl
@[simp] theorem answer_master : (s.answer v).master = s.master := rfl
@[simp] theorem answer_preset : (s.answer v).preset = s.preset := rfl
@[simp] theorem answer_crush : (s.answer v).crush = s.crush := rfl
@[simp] theorem answer_mono : (s.answer v).mono = s.mono := rfl
@[simp] theorem answer_buflen : (s.answer v).buflen = s.buflen := rfl
@[simp] theorem answer_cursor : (s.answer v).cursor = s.cursor := rfl
@[simp] theorem answer_derived : (s.answer v).derived = s.derived := rfl
@[simp] theorem answer_pending : (s.answer v).pending = s.pending := rfl
@[simp] theorem answer_samples : (s.answer v).samples = s.samples := rfl
@[simp] theorem answer_delay : (s.answer v).delay = s.delay := rfl
@[simp] theorem answer_hazard : (s.answer v).hazard = s.hazard := rfl
@[simp] theorem answer_resetLine : (s.answer v).resetLine = s.resetLine := rfl
@[simp] theorem answer_schedule : (s.answer v).schedule = s.schedule := rfl
@[simp] theorem answer_response : (s.answer v).response = .data v := rfl
@[simp] theorem answer_freeCount : (s.answer v).freeCount = s.freeCount := rfl
@[simp] theorem answer_params : (s.answer v).params = s.params := rfl

end answer

section answerFree
/-! Fields after answering a read with an unspecified word. -/
variable (s : State)

@[simp] theorem answerFree_busy : (s.answerFree).busy = s.busy := rfl
@[simp] theorem answerFree_done : (s.answerFree).done = s.done := rfl
@[simp] theorem answerFree_ready : (s.answerFree).ready = s.ready := rfl
@[simp] theorem answerFree_err : (s.answerFree).err = s.err := rfl
@[simp] theorem answerFree_errcode : (s.answerFree).errcode = s.errcode := rfl
@[simp] theorem answerFree_irqEn : (s.answerFree).irqEn = s.irqEn := rfl
@[simp] theorem answerFree_arg : (s.answerFree).arg = s.arg := rfl
@[simp] theorem answerFree_rate : (s.answerFree).rate = s.rate := rfl
@[simp] theorem answerFree_wet : (s.answerFree).wet = s.wet := rfl
@[simp] theorem answerFree_dry : (s.answerFree).dry = s.dry := rfl
@[simp] theorem answerFree_master : (s.answerFree).master = s.master := rfl
@[simp] theorem answerFree_preset : (s.answerFree).preset = s.preset := rfl
@[simp] theorem answerFree_crush : (s.answerFree).crush = s.crush := rfl
@[simp] theorem answerFree_mono : (s.answerFree).mono = s.mono := rfl
@[simp] theorem answerFree_buflen : (s.answerFree).buflen = s.buflen := rfl
@[simp] theorem answerFree_cursor : (s.answerFree).cursor = s.cursor := rfl
@[simp] theorem answerFree_derived : (s.answerFree).derived = s.derived := rfl
@[simp] theorem answerFree_pending : (s.answerFree).pending = s.pending := rfl
@[simp] theorem answerFree_samples : (s.answerFree).samples = s.samples := rfl
@[simp] theorem answerFree_delay : (s.answerFree).delay = s.delay := rfl
@[simp] theorem answerFree_hazard : (s.answerFree).hazard = s.hazard := rfl
@[simp] theorem answerFree_resetLine : (s.answerFree).resetLine = s.resetLine := rfl
@[simp] theorem answerFree_schedule : (s.answerFree).schedule = s.schedule := rfl
@[simp] theorem answerFree_response : (s.answerFree).response = .data (Config.freeWord s.freeCount) := rfl
@[simp] theorem answerFree_freeCount : (s.answerFree).freeCount = s.freeCount + 1 := rfl
@[simp] theorem answerFree_params : (s.answerFree).params = s.params := rfl

end answerFree

end Sys2Proof.Machine
end

