-- ==== Sys2Proof/Laws/Ops.lean ====
section
/-! SUPPORT. One lemma or a few for each shared operation, saying all it can do: later proofs cite these instead of
unfolding it. -/

namespace Sys2Proof.Machine

/-! ### Words of B, SL and SR -/

@[simp] theorem delayWord_setDelayWord_same (s : State) (i : Nat) (v : Word) :
    (s.setDelayWord i v).delayWord i = v := Memory.word_setWord_same _ _ _

theorem delayWord_setDelayWord_other (s : State) {i j : Nat} (h : j ≠ i) (v : Word) :
    (s.setDelayWord i v).delayWord j = s.delayWord j := Memory.word_setWord_other _ (by omega) v

/-- Storing a word of B changes no byte of another word. -/
theorem delay_byte_setDelayWord (s : State) {i a : Nat} (h : a < 4 * i ∨ 4 * i + 4 ≤ a) (v : Word) :
    (s.setDelayWord i v).delay.byte a = s.delay.byte a := Memory.byte_setWord_other _ h v

theorem sampleOffset_inj {c c' : Channel} {n n' : Nat} (hn : n < Config.blockMax) (hn' : n' < Config.blockMax)
    (h : c ≠ c' ∨ n ≠ n') :
    sampleOffset c n + 4 ≤ sampleOffset c' n' ∨ sampleOffset c' n' + 4 ≤ sampleOffset c n := by
  simp only [Config.blockMax] at hn hn'
  cases c <;> cases c' <;> simp [sampleOffset, Channel.base, Config.slBase, Config.srBase] at h ⊢ <;> omega

@[simp] theorem sample_setSample_same (s : State) (c : Channel) (n : Nat) (v : Word) :
    (s.setSample c n v).sample c n = v := Memory.word_setWord_same _ _ _

theorem sample_setSample_other (s : State) {c c' : Channel} {n n' : Nat} (hn : n < Config.blockMax)
    (hn' : n' < Config.blockMax) (h : c' ≠ c ∨ n' ≠ n) (v : Word) :
    (s.setSample c n v).sample c' n' = s.sample c' n' := Memory.word_setWord_other _ (sampleOffset_inj hn' hn h) v

@[simp] theorem readBlock_length (s : State) (c : Channel) (n : Nat) : (s.readBlock c n).length = n := by
  simp [State.readBlock]

/-- Writing a block changes SL and SR alone. -/
theorem writeBlock_eq (s : State) (c : Channel) (k : Nat) (ys : List Word) :
    s.writeBlock c k ys = { s with samples := (s.writeBlock c k ys).samples } := by
  induction ys generalizing s k with
  | nil => rfl
  | cons y ys ih => rw [State.writeBlock, ih]; rfl

/-- Writing a block of `ys` from sample `k` changes no byte outside those words. -/
theorem samples_byte_writeBlock (s : State) (c : Channel) (k : Nat) (ys : List Word) {a : Nat}
    (h : a < sampleOffset c k ∨ sampleOffset c k + 4 * ys.length ≤ a) :
    (s.writeBlock c k ys).samples.byte a = s.samples.byte a := by
  induction ys generalizing s k with
  | nil => rfl
  | cons y ys ih =>
    have e : sampleOffset c (k + 1) = sampleOffset c k + 4 := by simp only [sampleOffset]; omega
    rw [List.length_cons] at h
    rw [State.writeBlock, ih _ _ (by omega), setSample_samples, Memory.byte_setWord_other _ (by omega)]

/-- A written block holds its words. -/
theorem sample_writeBlock_same (s : State) (c : Channel) (k : Nat) (ys : List Word) {j : Nat} (hj : j < ys.length) :
    (s.writeBlock c k ys).sample c (k + j) = ys[j] := by
  induction ys generalizing s k j with
  | nil => simp at hj
  | cons y ys ih =>
    rw [State.writeBlock]
    cases j with
    | zero =>
      have : ((s.setSample c k y).writeBlock c (k + 1) ys).sample c k = (s.setSample c k y).sample c k := by
        refine Memory.word_congr (fun x h1 h2 => samples_byte_writeBlock _ _ _ _ (.inl ?_))
        simp only [sampleOffset] at h2 ⊢; omega
      simpa using this
    | succ j =>
      have := ih (s.setSample c k y) (k + 1) (j := j) (by simpa using hj)
      simpa [Nat.add_assoc, Nat.add_comm 1 j] using this

theorem samples_wf_writeBlock (s : State) (c : Channel) (k : Nat) (ys : List Word) (h : s.samples.wf = true) :
    (s.writeBlock c k ys).samples.wf = true := by
  induction ys generalizing s k with
  | nil => exact h
  | cons y ys ih => exact ih _ _ (Memory.wf_setWord h _ _)

/-- Zeroing makes every word of the circular buffer +0.0 (20_memory.md R78). -/
theorem delayWord_zeroDelay_below (s : State) {i : Nat} (h : i < s.buflen.toNat) : s.zeroDelay.delayWord i = 0 :=
  Memory.word_fillBelow_zero _ (by omega)

/-- Zeroing keeps every word at and above BUFLEN (20_memory.md R78). -/
theorem delayWord_zeroDelay_above (s : State) {i : Nat} (h : s.buflen.toNat ≤ i) :
    s.zeroDelay.delayWord i = s.delayWord i := Memory.word_fillBelow_above _ (by omega) _

/-! ### Settling and reset -/

theorem settle_of_no_hazard {s : State} (h : s.hazard = false) : s.settle = s := by simp [State.settle, h]

theorem settle_of_hazard {s : State} (h : s.hazard = true) : s.settle = s.scramble := by simp [State.settle, h]

/-- Settling changes the memories, the hazard mark and the free-value counter alone. -/
theorem settle_eq (s : State) :
    s.settle = { s with samples := s.settle.samples, delay := s.settle.delay, hazard := false,
                        freeCount := s.settle.freeCount } := by
  cases h : s.hazard
  · rw [settle_of_no_hazard h]; cases s; simp_all
  · rw [settle_of_hazard h]; rfl

/-- Forgetting keeps the canonical forms. -/
theorem forget_wf {s : State} (hs : s.samples.wf = true) (hd : s.delay.wf = true) :
    s.forget.samples.wf = true ∧ s.forget.delay.wf = true :=
  ⟨Memory.wf_fillBelow hs _ _, Memory.wf_fillBelow hd _ _⟩

/-- Settling keeps the canonical forms. -/
theorem settle_wf {s : State} (hs : s.samples.wf = true) (hd : s.delay.wf = true) :
    s.settle.samples.wf = true ∧ s.settle.delay.wf = true := by
  cases h : s.hazard
  · rw [settle_of_no_hazard h]; exact ⟨hs, hd⟩
  · rw [settle_of_hazard h]; exact ⟨Memory.wf_fillBelow hs _ _, Memory.wf_fillBelow hd _ _⟩

/-- Abandoning a command: every register at its reset value, the memories as settling leaves them (R280, R286). -/
theorem abandon_eq (s : State) : s.abandon = { State.reset with
    samples := s.settle.samples, delay := s.settle.delay, freeCount := s.settle.freeCount
    resetLine := true, schedule := s.schedule, response := s.response, params := s.params } := by
  rw [State.abandon, settle_eq s]
  rfl

/-- Asserting reset after the step of a command that runs: what the command leaves, abandoned (R280). -/
theorem resetAfterStep_of_next {s t : State} (hb : s.busy = true) (hl : s.resetLine = false)
    (h : execWord s.pending.cmd s = .next t) : resetAfterStep s = .next t.abandon := by
  simp [resetAfterStep, State.engineEnabled, hb, hl, h, mapNext]

/-- Asserting reset on a line that is not asserted: every register at its reset value, the memories as BUSY says
(R280, R281, R283). -/
theorem assertReset_eq {s : State} (h : s.resetLine = false) :
    s.assertReset = { State.reset with
      samples := if s.busy then s.settle.samples else s.forget.samples
      delay := if s.busy then s.settle.delay else s.forget.delay
      freeCount := if s.busy then s.settle.freeCount else s.forget.freeCount
      resetLine := true, schedule := s.schedule, response := s.response, params := s.params } := by
  cases hb : s.busy
  · simp [State.assertReset, h, hb, State.resetRegisters]
  · simp [State.assertReset, h, hb, abandon_eq]

/-! ### The derived record -/

/-- IIR_RETUNE at a point that the parameters do not list is the default formula (R7, R136). -/
theorem retune_of_unlisted {ps : Params} {alpha rate : Word}
    (h : ∀ p ∈ ps.retunePoints, ¬ (p.alpha = alpha ∧ p.rate = rate)) :
    ps.retune alpha rate = iirRetune alpha rate := by
  have hn : ps.retunePoint alpha rate = none := by
    simpa [Params.retunePoint, List.find?_eq_none] using h
  simp [Params.retune, hn]

/-! ### Taps -/

/-- A tap lies in the buffer (20_memory.md R77). -/
theorem tapIndex_lt {len : Nat} (h : 0 < len) (cur offset extra : Nat) : tapIndex len cur offset extra < len := by
  have h1 := Int.emod_nonneg ((offset : Int) + cur - extra) (b := (len : Int)) (by omega)
  have h2 := Int.emod_lt_of_pos ((offset : Int) + cur - extra) (b := (len : Int)) (by omega)
  unfold tapIndex; omega

/-- With no lag a tap is a remainder of naturals. -/
theorem tapIndex_zero (len cur offset : Nat) : tapIndex len cur offset 0 = (offset + cur) % len := by
  unfold tapIndex
  rw [show ((offset : Int) + cur - (0 : Nat)) = ((offset + cur : Nat) : Int) by push_cast; ring, ← Int.natCast_mod]
  exact Int.toNat_natCast _

/-! ### The kernel -/

/-- What the kernel's writes to B may do to a state: nothing outside B, nothing at or above BUFLEN, and the canonical
form is kept. -/
structure DelayOnly (s t : State) : Prop where
  eq : t = { s with delay := t.delay }
  above : 0 < s.buflen.toNat → ∀ a, 4 * s.buflen.toNat ≤ a → t.delay.byte a = s.delay.byte a
  wf : s.delay.wf = true → t.delay.wf = true

theorem DelayOnly.refl (s : State) : DelayOnly s s := ⟨rfl, fun _ _ _ => rfl, id⟩

theorem DelayOnly.buflen {s t : State} (h : DelayOnly s t) : t.buflen = s.buflen := by rw [h.eq]

theorem DelayOnly.trans {s t u : State} (h : DelayOnly s t) (k : DelayOnly t u) : DelayOnly s u where
  eq := by rw [k.eq, h.eq]
  above h0 a ha := by rw [k.above (by rwa [h.buflen]) a (by rwa [h.buflen]), h.above h0 a ha]
  wf := k.wf ∘ h.wf

/-- Storing a word at a tap. -/
theorem delayOnly_setDelayWord (s : State) {i : Nat} (h : 0 < s.buflen.toNat → i < s.buflen.toNat) (v : Word) :
    DelayOnly s (s.setDelayWord i v) where
  eq := rfl
  above h0 a ha := delay_byte_setDelayWord s (.inr (by have := h h0; omega)) v
  wf hw := Memory.wf_setWord hw _ _

theorem delayOnly_reflect (s : State) (t : NanTag) (inp wall tap : Word) : DelayOnly s (s.reflect t inp wall tap) :=
  delayOnly_setDelayWord s (fun h0 => tapIndex_lt h0 _ _ _) _

theorem delayOnly_reflections (s : State) (e : Nat) (lin rin : Word) : DelayOnly s (s.reflections e lin rin) :=
  (((delayOnly_reflect s _ _ _ _).trans (delayOnly_reflect _ _ _ _ _)).trans (delayOnly_reflect _ _ _ _ _)).trans
    (delayOnly_reflect _ _ _ _ _)

theorem delayOnly_allPass (s : State) (t : NanTag) (x mo d g : Word) : DelayOnly s (s.allPass t x mo d g).1 :=
  delayOnly_setDelayWord s (fun h0 => tapIndex_lt h0 _ _ _) _

theorem delayOnly_allPasses (s : State) (e : Nat) (l r : Word) : DelayOnly s (s.allPasses e l r).1 :=
  (((delayOnly_allPass s _ _ _ _ _).trans (delayOnly_allPass _ _ _ _ _ _)).trans (delayOnly_allPass _ _ _ _ _ _)).trans
    (delayOnly_allPass _ _ _ _ _ _)

@[simp] theorem reflect_derived (s : State) (t : NanTag) (inp wall tap : Word) :
    (s.reflect t inp wall tap).derived = s.derived := rfl
@[simp] theorem reflect_buflen (s : State) (t : NanTag) (inp wall tap : Word) :
    (s.reflect t inp wall tap).buflen = s.buflen := rfl
@[simp] theorem reflect_cursor (s : State) (t : NanTag) (inp wall tap : Word) :
    (s.reflect t inp wall tap).cursor = s.cursor := rfl
@[simp] theorem reflect_wet (s : State) (t : NanTag) (inp wall tap : Word) :
    (s.reflect t inp wall tap).wet = s.wet := rfl
@[simp] theorem reflect_dry (s : State) (t : NanTag) (inp wall tap : Word) :
    (s.reflect t inp wall tap).dry = s.dry := rfl
@[simp] theorem reflect_master (s : State) (t : NanTag) (inp wall tap : Word) :
    (s.reflect t inp wall tap).master = s.master := rfl
@[simp] theorem reflect_freeCount (s : State) (t : NanTag) (inp wall tap : Word) :
    (s.reflect t inp wall tap).freeCount = s.freeCount := rfl
@[simp] theorem allPass_derived (s : State) (t : NanTag) (x mo d g : Word) :
    (s.allPass t x mo d g).1.derived = s.derived := rfl
@[simp] theorem allPass_buflen (s : State) (t : NanTag) (x mo d g : Word) :
    (s.allPass t x mo d g).1.buflen = s.buflen := rfl
@[simp] theorem allPass_cursor (s : State) (t : NanTag) (x mo d g : Word) :
    (s.allPass t x mo d g).1.cursor = s.cursor := rfl
@[simp] theorem allPass_wet (s : State) (t : NanTag) (x mo d g : Word) :
    (s.allPass t x mo d g).1.wet = s.wet := rfl
@[simp] theorem allPass_dry (s : State) (t : NanTag) (x mo d g : Word) :
    (s.allPass t x mo d g).1.dry = s.dry := rfl
@[simp] theorem allPass_master (s : State) (t : NanTag) (x mo d g : Word) :
    (s.allPass t x mo d g).1.master = s.master := rfl
@[simp] theorem allPass_freeCount (s : State) (t : NanTag) (x mo d g : Word) :
    (s.allPass t x mo d g).1.freeCount = s.freeCount := rfl

/-- The mix reads the three gain registers alone (R189). -/
theorem mix_congr {s u : State} (hw : u.wet = s.wet) (hd : u.dry = s.dry) (hm : u.master = s.master) (t : NanTag)
    (out x : Word) : u.mix t out x = s.mix t out x := by simp only [State.mix, hw, hd, hm]

/-- The four reflection taps, stage by stage, each with its offsets (R184, R185, R188). -/
theorem reflections_eq {s s1 s2 s3 : State} {e : Nat} {lin rin : Word}
    (h1 : s1 = s.reflect ⟨e, 2⟩ lin s.derived.S_dLSAME s.derived.S_mLSAME)
    (h2 : s2 = s1.reflect ⟨e, 7⟩ rin s.derived.S_dRSAME s.derived.S_mRSAME)
    (h3 : s3 = s2.reflect ⟨e, 12⟩ lin s.derived.S_dRDIFF s.derived.S_mLDIFF) :
    s.reflections e lin rin = s3.reflect ⟨e, 17⟩ rin s.derived.S_dLDIFF s.derived.S_mRDIFF := by
  subst h3 h2 h1; rfl

/-- The four all-pass stages, stage by stage, each with its offsets and gain (R187, R188). -/
theorem allPasses_eq {s : State} {l1 r1 l2 r2 : State × Word} {e : Nat} {lo ro : Word}
    (h1 : l1 = s.allPass ⟨e, 36⟩ lo s.derived.S_mLAPF1 s.derived.S_dAPF1 s.derived.g_vAPF1)
    (h2 : r1 = l1.1.allPass ⟨e, 40⟩ ro s.derived.S_mRAPF1 s.derived.S_dAPF1 s.derived.g_vAPF1)
    (h3 : l2 = r1.1.allPass ⟨e, 44⟩ l1.2 s.derived.S_mLAPF2 s.derived.S_dAPF2 s.derived.g_vAPF2)
    (h4 : r2 = l2.1.allPass ⟨e, 48⟩ r1.2 s.derived.S_mRAPF2 s.derived.S_dAPF2 s.derived.g_vAPF2) :
    s.allPasses e lo ro = (r2.1, l2.2, r2.2) := by
  have d1 : l1.1.derived = s.derived := by rw [h1]; rfl
  have d2 : r1.1.derived = s.derived := by rw [h2]; exact d1
  have d3 : l2.1.derived = s.derived := by rw [h3]; exact d2
  simp only [State.allPasses, ← h1, d1, ← h2, d2, ← h3, d3, ← h4]

/-- What a sample does after its buffer accesses (R190; log 6). -/
theorem nextEpoch_advanceCursor {s u : State} (hb : u.buflen = s.buflen) (hc : u.cursor = s.cursor)
    (hf : u.freeCount = s.freeCount) : u.advanceCursor.nextEpoch =
      { u with cursor := BitVec.ofNat 32 (tapIndex s.buflen.toNat s.cursor.toNat 1 0),
               freeCount := s.freeCount + 1 } := by
  simp only [State.nextEpoch, State.advanceCursor, hb, hc, hf]

/-- One sample changes B, CURSOR and the free-value counter alone: B as `DelayOnly` says, CURSOR by one (R180,
R190). -/
theorem kernel_state (s : State) (xL xR : Word) :
    ∃ t, DelayOnly s t ∧ (s.kernel xL xR).1 = t.advanceCursor.nextEpoch :=
  ⟨_, (delayOnly_reflections s _ _ _).trans (delayOnly_allPasses _ _ _ _), rfl⟩

@[simp] theorem runKernel_outputs_length (s : State) (xs : List (Word × Word)) :
    (s.runKernel xs).2.length = xs.length := by
  induction xs generalizing s with
  | nil => rfl
  | cons x xs ih => simp [State.runKernel, ih]

/-! ### The crush stage -/

@[simp] theorem downsample_length (e : Nat) (x : List Word) : (downsample e x).length = x.length := by
  unfold downsample; simp only; split_ifs <;> simp

@[simp] theorem quantizeBlock_length (e b : Nat) (y : List Word) : (quantizeBlock e b y).length = y.length := by
  simp [quantizeBlock]

/-- The crush stage keeps the length of a block (R215). -/
@[simp] theorem crushBlock_length (e : Nat) (x : List Word) (level : Fin 4) :
    (crushBlock e x level).length = x.length := by
  unfold crushBlock; split <;> simp

@[simp] theorem inputLeft_length (s : State) (n : Nat) : (s.inputLeft n).length = n := by simp [State.inputLeft]

@[simp] theorem inputRight_length (s : State) (n : Nat) : (s.inputRight n).length = n := by
  unfold State.inputRight; split_ifs <;> simp

@[simp] theorem outputLeft_length (s : State) (n : Nat) : (s.outputLeft n).length = n := by
  simp [State.outputLeft, State.runBlock]

@[simp] theorem outputRight_length (s : State) (n : Nat) : (s.outputRight n).length = n := by
  unfold State.outputRight; split_ifs <;> simp [State.runBlock]

/-! ### Outcomes -/

@[simp] theorem mapNext_next (f : State → State) (s : State) : mapNext f (.next s) = .next (f s) := rfl

@[simp] theorem step_empty {s : State} (h : s.schedule = []) : step s = engineStep s := by simp [step, advance, h]

@[simp] theorem step_event {s : State} {e : Event} {rest : List Event} (h : s.schedule = e :: rest) :
    step s = applyEvent e { s with schedule := rest } := by simp [step, advance, h]

end Sys2Proof.Machine
end

