-- ==== Sys2Proof/Laws/PerInstr.lean ====
section
/-! SUPPORT. Facts of each command as syntax, one lemma for each constructor. -/

namespace Sys2Proof.Laws

/-- The low eight bits of a command's word are its opcode, a defined one (30_encoding.md R101, R103). -/
def OpcodeField.Statement (i : Instr) : Prop := (opcField (encode i)).toNat = i.opcode ∧ i.opcode ≤ 0x08

/-- The field OPC of a word of format C (R101). -/
theorem opcField_formatC (n imm opc : Nat) : (opcField (formatC n imm opc)).toNat = opc % 256 := by
  simp only [opcField, formatC, BitVec.extractLsb'_toNat, BitVec.toNat_ofNat, Nat.shiftRight_zero]
  omega

namespace OpcodeField

theorem nop : Statement .nop := ⟨opcField_formatC 0 0 0x00, by decide⟩
theorem init : Statement .init := ⟨opcField_formatC 0 0 0x01, by decide⟩
theorem setPreset (imm : Nat) : Statement (.setPreset imm) := ⟨opcField_formatC 0 imm 0x02, by simp [Instr.opcode]⟩
theorem setWet : Statement .setWet := ⟨opcField_formatC 0 0 0x03, by decide⟩
theorem setDry : Statement .setDry := ⟨opcField_formatC 0 0 0x04, by decide⟩
theorem setMaster : Statement .setMaster := ⟨opcField_formatC 0 0 0x05, by decide⟩
theorem setCrush (imm : Nat) : Statement (.setCrush imm) := ⟨opcField_formatC 0 imm 0x06, by simp [Instr.opcode]⟩
theorem setChannels (imm : Nat) : Statement (.setChannels imm) :=
  ⟨opcField_formatC 0 imm 0x07, by simp [Instr.opcode]⟩
theorem process (n : Nat) : Statement (.process n) := ⟨opcField_formatC n 0 0x08, by simp [Instr.opcode]⟩

end OpcodeField

end Sys2Proof.Laws
end

