-- ==== Sys2Proof/Tests/Slice0.lean ====
section
/-! SUPPORT. Tests on fixed values, and one witness for every statement that has hypotheses. Expected values come from
spec/95_test_vectors.md (the vector's name stands in the docstring) or from the rule cited. -/

namespace Sys2Proof.Tests

set_option Elab.async false

open Sys2Proof.Machine

/-- What `f` shows of the next state, if there is one. -/
def after {α : Type} (f : State → α) : Host.Outcome State Fault Refusal → Option α
  | .next s => some (f s)
  | .fault _ => none
  | .refused _ => none

/-- Reset, with an operand latched for a BUSY command. -/
def busyWith (w arg : Word) : State := { State.reset with pending := ⟨w, arg⟩, busy := true }

/-- The synthetic record S1 (95_test_vectors.md section 2.4). -/
def s1 : Derived :=
  { S_dAPF1 := 2, S_dAPF2 := 3, g_vIIR := 0x3F000000, g_vCOMB1 := 0x3F000000, g_vCOMB2 := 0x3E800000, g_vCOMB3 := 0,
    g_vCOMB4 := 0, g_vWALL := 0x3E800000, g_vAPF1 := 0x3F000000, g_vAPF2 := 0x3F000000, S_mLSAME := 1,
    S_mRSAME := 33, S_mLCOMB1 := 1, S_mRCOMB1 := 33, S_mLCOMB2 := 5, S_mRCOMB2 := 37, S_dLSAME := 58, S_dRSAME := 26,
    S_mLDIFF := 5, S_mRDIFF := 37, S_mLCOMB3 := 0, S_mRCOMB3 := 0, S_mLCOMB4 := 0, S_mRCOMB4 := 0, S_dLDIFF := 62,
    S_dRDIFF := 30, S_mLAPF1 := 12, S_mRAPF1 := 44, S_mLAPF2 := 20, S_mRAPF2 := 52, g_vLIN := 0x3F000000,
    g_vRIN := 0x3F000000 }

/-- The start state of the kernel vectors: S1, a buffer of 64 zero words, WET 1.0, DRY +0.0, MASTER 1.0. -/
def small : State :=
  { State.reset with
    delay := ⟨[], []⟩, derived := s1, ready := true, buflen := 64, rate := 0x46AC4400, wet := 0x3F800000, dry := 0 }

/-- `small` in the mono path. -/
def smallMono : State := { small with mono := true }

/-- `small` with the four cross-side offsets at 0 (vectors KN5, KN6). -/
def smallShared : State :=
  { small with derived := { s1 with S_mLDIFF := 0, S_mRDIFF := 0, S_dLDIFF := 0, S_dRDIFF := 0 } }

/-- A silent record in a buffer of 64 zero words. -/
def smallSilent : State := { small with derived := Derived.zero }

/-- Reset, with the gains of R192 (2). -/
def plainMix : State := State.reset

/-- Reset, with the reset input asserted. -/
def underReset : State := { State.reset with resetLine := true }

/-! ### Ill-formed commands -/

theorem test_wellFormed_setPreset : (Instr.setPreset 256).wellFormed = false ∧ (Instr.setPreset 255).wellFormed := by
  decide
theorem test_wellFormed_setCrush : (Instr.setCrush 256).wellFormed = false ∧ (Instr.setCrush 255).wellFormed := by
  decide
theorem test_wellFormed_setChannels :
    (Instr.setChannels 256).wellFormed = false ∧ (Instr.setChannels 255).wellFormed := by decide
theorem test_wellFormed_process : (Instr.process 65536).wellFormed = false ∧ (Instr.process 65535).wellFormed := by
  decide

/-! ### Decoding words written out from R101 and R103: N16, IMM8, OPC -/

theorem test_decode_nop : (decode (0x0000#16 ++ 0x00#8 ++ 0x00#8)).toOption = some .nop := by decide
theorem test_decode_init : (decode (0x0000#16 ++ 0x00#8 ++ 0x01#8)).toOption = some .init := by decide
theorem test_decode_setPreset : (decode (0x0000#16 ++ 0x0C#8 ++ 0x02#8)).toOption = some (.setPreset 12) := by decide
theorem test_decode_setWet : (decode (0x0000#16 ++ 0x00#8 ++ 0x03#8)).toOption = some .setWet := by decide
theorem test_decode_setDry : (decode (0x0000#16 ++ 0x00#8 ++ 0x04#8)).toOption = some .setDry := by decide
theorem test_decode_setMaster : (decode (0x0000#16 ++ 0x00#8 ++ 0x05#8)).toOption = some .setMaster := by decide
theorem test_decode_setCrush : (decode (0x0000#16 ++ 0x07#8 ++ 0x06#8)).toOption = some (.setCrush 7) := by decide
theorem test_decode_setChannels :
    (decode (0x0000#16 ++ 0x02#8 ++ 0x07#8)).toOption = some (.setChannels 2) := by decide
/-- EN14. -/
theorem test_decode_process : (decode (0x2001#16 ++ 0x00#8 ++ 0x08#8)).toOption = some (.process 8193) := by decide
/-- EN16: fields a command does not use are ignored. -/
theorem test_decode_ignored_fields : (decode 0xFFFF0001).toOption = some .init := by decide
/-- EN15, and the largest opcode. -/
theorem test_decode_reserved : (decode 0x00000009).toOption = none ∧ (decode 0x000000FF).toOption = none := by decide
/-- The encoder on the words of R109. -/
theorem test_encode : encode (.setPreset 9) = 0x00000902 ∧ encode (.process 4096) = 0x10000008 := by decide
/-- The host's two entry points, on the word of PROCESS 4. -/
theorem test_table_word :
    decodeTableWord 32 0x00040008 = some (.process 4) ∧
      after State.statusWord (step (State.reset.withFetchWord 32 0x00040008)) = some 0x3A := by decide +kernel

/-! ### Commands -/

/-- CT1. -/
theorem test_nop : after State.statusWord (exec .nop State.reset) = some 0x02 := by decide +kernel
/-- CT2, CT7: the registers an accepted rate sets. -/
theorem test_init_accepts :
    after (fun s => (s.statusWord, s.rate, s.buflen, s.cursor)) (exec .init (busyWith 1 0x473B8000)) =
        some (0x06, 0x473B8000, 131072, 0) ∧
      after (fun s => (s.statusWord, s.buflen)) (exec .init (busyWith 1 0x00000001)) = some (0x06, 1) := by
  decide +kernel
/-- CT4, CT5: the rates INIT rejects. -/
theorem test_init_rejects :
    after (fun s => (s.statusWord, s.buflen)) (exec .init (busyWith 1 0x7FC00000)) = some (0x5A, 0) ∧
      after (fun s => (s.statusWord, s.buflen)) (exec .init (busyWith 1 0x48927C00)) = some (0x6A, 0) := by
  decide +kernel
/-- CT8: before INIT the index alone. -/
theorem test_setPreset : after (fun s => (s.statusWord, s.preset)) (exec (.setPreset 4) State.reset) = some (0x02, 4) := by
  decide +kernel
/-- CT9: an index above 9 is ignored, without an error. -/
theorem test_setPreset_ignored :
    after (fun s => (s.statusWord, s.preset)) (exec (.setPreset 12) State.reset) = some (0x02, 0) := by decide +kernel
/-- CT15: the pattern is kept. -/
theorem test_setWet : after State.wet (exec .setWet (busyWith 3 0x7FC00001)) = some 0x7FC00001 := by decide +kernel
/-- CT13. -/
theorem test_setDry : after State.dry (exec .setDry (busyWith 4 0xBF800000)) = some 0xBF800000 := by decide +kernel
/-- CT14. -/
theorem test_setMaster : after State.master (exec .setMaster (busyWith 5 0x40000000)) = some 0x40000000 := by
  decide +kernel
/-- EN9: 7 is stored as 3. -/
theorem test_setCrush : after State.crush (exec (.setCrush 7) State.reset) = some 3 := by decide +kernel
/-- X10, EN11: a count of 1 is mono, 0 and 2 are stereo. -/
theorem test_setChannels :
    after State.mono (exec (.setChannels 1) State.reset) = some true ∧
      after State.mono (exec (.setChannels 0) smallMono) = some false ∧
      after State.mono (exec (.setChannels 2) smallMono) = some false := by decide +kernel
/-- Z1, Z6: the errors of PROCESS. -/
theorem test_process_errors :
    after State.statusWord (exec (.process 0) State.reset) = some 0x3A ∧
      after State.statusWord (exec (.process 8193) small) = some 0x4E := by decide +kernel
/-- One sample through PROCESS in mono: KN1 n0's left output in both channels. -/
theorem test_process_mono :
    after (fun s => (s.statusWord, s.cursor, s.sample .left 0, s.sample .right 0))
        (exec (.process 1) (smallMono.setSample .left 0 0x3F800000)) = some (0x06, 1, 0x3D400000, 0x3D400000) := by
  decide +kernel

/-! ### The kernel, the crush stage and the preset load -/

/-- KN1 n0: the outputs, the cursor and the words B[1], B[5], B[12], B[20]. -/
theorem test_kernel_impulse :
    (fun k : State × Word × Word => (k.2, k.1.cursor, k.1.delayWord 1, k.1.delayWord 5, k.1.delayWord 12,
      k.1.delayWord 20)) (small.kernel 0x3F800000 0) =
      ((0x3D400000, 0), 1, 0x3E800000, 0x3E800000, 0x3E400000, 0x3DC00000) := by decide +kernel
/-- KN6: the right cross-side filter reads the left one's write, then overwrites it. -/
theorem test_kernel_shared_taps :
    (fun k : State × Word × Word => (k.2, k.1.delayWord 0)) (smallShared.kernel 0x3F800000 0) =
      ((0x3D000000, 0), 0x3D000000) := by decide +kernel
/-- The address table of section 2.4: `Ad(12, 2)` at CURSOR 0 and 63, `A1(0)` at CURSOR 0. -/
theorem test_taps : tapIndex 64 0 12 3 = 9 ∧ tapIndex 64 63 12 3 = 8 ∧ tapIndex 64 0 0 1 = 63 := by decide
/-- CR2, CR3, CR4: the three levels on x4. -/
theorem test_crush_levels :
    crushBlock 0 [0x3DCCCCCD, 0x3E4CCCCD, 0x3E99999A, 0x3ECCCCCD] 1 = [0x3DCCCCCD, 0x3E4CCCCE, 0x3E99999A, 0x3E4CCCCD] ∧
    crushBlock 0 [0x3DCCCCCD, 0x3E4CCCCD, 0x3E99999A, 0x3ECCCCCD] 2 = [0x3DCD0000, 0x3E4D0000, 0x3E998000, 0x3E4D0000] ∧
    crushBlock 0 [0x3DCCCCCD, 0x3E4CCCCD, 0x3E99999A, 0x3ECCCCCD] 3 = [0x3DCC0000, 0x3E4C0000, 0x3E9A0000, 0x3E4C0000] := by
  decide +kernel
/-- CR5, CR6, CR7: the tail wraps; an odd length; one sample is unchanged. -/
theorem test_downsample :
    downsample 0 [0x3F800000, 0x40000000, 0x40400000, 0x40800000] = [0x3F800000, 0x40000000, 0x40400000, 0x40000000] ∧
    downsample 0 [0x3F800000, 0x40000000, 0x40400000, 0x40800000, 0x40A00000] =
      [0x3F800000, 0x40000000, 0x40400000, 0x40000000, 0x3F800000] ∧
    downsample 0 [0x3F333333] = [0x3F333333] := by decide +kernel
/-- The ties of section 2.5 at 12 bits, and 2.5/2048 at 10 bits. -/
theorem test_quantize_ties :
    quantize ⟨0, 0⟩ 0x39800000 12 = 0x3A000000 ∧ quantize ⟨0, 0⟩ 0xBA400000 12 = 0xBA800000 ∧
      quantize ⟨0, 0⟩ 0xB919999A 12 = 0x80000000 ∧ quantize ⟨0, 0⟩ 0x3AA00000 10 = 0x3B000000 := by decide +kernel
/-- PL2: fields of Hall at 48000. -/
theorem test_derive_hall :
    (fun d : Derived => (d.S_dAPF1, d.S_mLSAME, d.S_mRAPF2, d.g_vIIR, d.g_vCOMB1, d.g_vCOMB3, d.g_vLIN))
        (derive Params.default (Params.default.presetAt 4) 0x473B8000) =
      (3665, 48431, 2734, 0x3F145A28, 0x3F200000, 0xBF100000, 0xBF800000) := by decide +kernel
/-- R7: another IIR_RETUNE, given by one point, reaches the derived record (PL1 has vIIR 0x3F5B0000 at 22050). -/
theorem test_derive_other_retune :
    (derive { Params.default with retunePoints := [⟨0x3F5B0000, 0x46AC4400, 0x3F000000⟩] }
      (Params.default.presetAt 0) 0x46AC4400).g_vIIR = 0x3F000000 := by decide +kernel
/-- Section 2.2: the largest rate INIT accepts, and the next. -/
theorem test_largest_rate : bufferLength 0x486589BE = 524288 ∧ bufferLength 0x486589BF = 1048576 := by decide +kernel

/-! ### The window, the schedule and reset -/

/-- Z9: clearing ERR alone. -/
theorem test_status_write :
    after State.statusWord (hostAccess (.write 4 0x04 8) { small with done := true, err := true, errcode := .blockLen }) =
      some 0x06 := by decide +kernel
/-- Z7, the first order: the NOP is dropped while BUSY. -/
theorem test_cmd_dropped :
    after State.statusWord (hostAccess (.write 4 0x10 0) { small with busy := true }) = some 0x2D := by decide +kernel
/-- Z12. -/
theorem test_bus_error :
    after State.response (hostAccess (.read 2 0x04) State.reset) = some .busError ∧
      after State.response (hostAccess (.read 4 0x06) State.reset) = some .busError := by decide +kernel
/-- R75: byte lane k is at address + k. -/
theorem test_byte_lanes :
    after (fun s => (s.samples.byte 0x10004, s.samples.byte 0x10007)) (hostAccess (.write 4 0x10004 0x11223344) State.reset) =
      some (0x44, 0x11) := by decide +kernel
/-- Section 2.8: three of the values read right after reset. -/
theorem test_reset_reads :
    after State.response (hostAccess (.read 4 0x00) State.reset) = some (.data 0x50535856) ∧
      after State.response (hostAccess (.read 4 0x1C) State.reset) = some (.data 0x3F800000) ∧
      after State.response (hostAccess (.read 4 0x3C) State.reset) = some (.data 0x13) := by decide +kernel
/-- R280: a command abandoned after its step leaves SL[0] as it wrote it (KN1 n0), before its step as it was; the registers
are those of reset either way. -/
theorem test_reset_while_busy :
    (fun s : State => (after (fun t => (t.sample .left 0, t.statusWord, t.buflen))
        (step { s with schedule := [.assertResetAfterStep] }),
      after (fun t => (t.sample .left 0, t.statusWord, t.buflen)) (step { s with schedule := [.assertReset] })))
      { small.setSample .left 0 0x3F800000 with mono := true, busy := true, pending := ⟨0x00010008, 0⟩ } =
    (some (0x3D400000, 0, 0), some (0x3F800000, 0, 0)) := by decide +kernel
/-- The memories at reset are in canonical form. -/
theorem test_reset_memories : State.reset.samples.wf = true ∧ State.reset.delay.wf = true := by decide +kernel

/-! ### Witnesses: what meets the hypotheses of each statement, each clause at a boundary -/

theorem witness_DecodeAndEncodeAgree :
    (Instr.setPreset 255).wellFormed = true ∧ (Instr.process 65535).wellFormed = true ∧
      (decode 0xFFFF0001).toOption = some .init ∧ (decode 0xFFFFFF08).toOption = some (.process 65535) := by decide

theorem witness_UnusedFieldsAreIgnored :
    decode 0xFFFFFF08 = .ok (.process 65535) ∧ (opcField 0xFFFFFF08).toNat ≤ 0x08 := ⟨rfl, by decide⟩

theorem witness_OpcodeMapIsTotal :
    (0xFFFFFF00#32).toNat % 256 = 0 ∧ (0xFFFFFF01#32).toNat % 256 = 1 ∧ (0xFFFFFF02#32).toNat % 256 = 2 ∧
    (0xFFFFFF03#32).toNat % 256 = 3 ∧ (0xFFFFFF04#32).toNat % 256 = 4 ∧ (0xFFFFFF05#32).toNat % 256 = 5 ∧
    (0xFFFFFF06#32).toNat % 256 = 6 ∧ (0xFFFFFF07#32).toNat % 256 = 7 ∧ (0xFFFFFF08#32).toNat % 256 = 8 ∧
    9 ≤ (0x00000009#32).toNat % 256 ∧ 9 ≤ (0x000000FF#32).toNat % 256 := by decide

/-- A BUSY command, with an empty schedule and with the engine's turn at its head. -/
theorem witness_StepRunsTheDecodedCommand :
    (busyWith 0x02 0).busy = true ∧ (busyWith 0x02 0).resetLine = false ∧
      decode (busyWith 0x02 0).pending.cmd = .ok (.setPreset 0) ∧ (busyWith 0x02 0).schedule = [] ∧
      (State.reset.placeWord 0x02).busy = true ∧ (State.reset.placeWord 0x02).resetLine = false ∧
      decode (State.reset.placeWord 0x02).pending.cmd = .ok (.setPreset 0) ∧
      (State.reset.placeWord 0x02).schedule = .engine :: [] ∧ State.reset.hazard = false :=
  ⟨rfl, rfl, rfl, rfl, rfl, rfl, rfl, rfl, rfl⟩

/-- A BUSY command with the least and the largest reserved opcode. -/
theorem witness_StepRunsTheDecodedCommand_reserved :
    (busyWith 0x09 0).busy = true ∧ (busyWith 0x09 0).resetLine = false ∧
      0x09 ≤ (busyWith 0x09 0).pending.cmd.toNat % 256 ∧ (busyWith 0x09 0).schedule = [] ∧
      (State.reset.placeWord 0xFF).busy = true ∧ (State.reset.placeWord 0xFF).resetLine = false ∧
      0x09 ≤ (State.reset.placeWord 0xFF).pending.cmd.toNat % 256 ∧
      (State.reset.placeWord 0xFF).schedule = .engine :: [] :=
  ⟨rfl, rfl, by decide, rfl, rfl, rfl, by decide, rfl⟩

theorem witness_CmdWriteIsAcceptedOrDropped :
    (State.reset.resetLine = false ∧ State.reset.busy = false) ∧
      (busyWith 0 0).resetLine = false ∧ (busyWith 0 0).busy = true := ⟨⟨rfl, rfl⟩, rfl, rfl⟩

theorem witness_EngineStepEndsTheCommand :
    (busyWith 0xFF 0).busy = true ∧ (busyWith 0xFF 0).resetLine = false ∧ (busyWith 0xFF 0).schedule = [] ∧
      (State.reset.placeWord 0).busy = true ∧ (State.reset.placeWord 0).resetLine = false ∧
      (State.reset.placeWord 0).schedule = .engine :: [] :=
  ⟨rfl, rfl, rfl, rfl, rfl, rfl⟩

theorem witness_ReservedOpcodeRaisesBadOpcode :
    0x09 ≤ (0x00000009#32).toNat % 256 ∧ 0x09 ≤ (0xFFFFFFFF#32).toNat % 256 := by decide

theorem witness_NopCompletes : (0xFFFFFF00#32).toNat % 256 = 0x00 := by decide

theorem witness_GainSettersStoreTheOperand :
    (0xFFFFFF03#32).toNat % 256 = 0x03 ∧ (0xFFFFFF04#32).toNat % 256 = 0x04 ∧ (0xFFFFFF05#32).toNat % 256 = 0x05 := by
  decide

theorem witness_SetCrushSaturates : (0xFFFFFF06#32).toNat % 256 = 0x06 := by decide

theorem witness_SetChannelsSelectsMono : (0xFFFFFF07#32).toNat % 256 = 0x07 ∧ (0 : Nat) ≠ 1 ∧ (2 : Nat) ≠ 1 := by
  decide

/-- Index 10 and the selected index; index 9 before and after INIT. -/
theorem witness_SetPresetSwitches :
    (0xFFFF0902#32).toNat % 256 = 0x02 ∧ 9 < 10 ∧ 0 = State.reset.preset.val ∧ 9 ≤ 9 ∧ 9 ≠ State.reset.preset.val ∧ State.reset.ready = false ∧
      9 ≠ small.preset.val ∧ small.ready = true := by decide +kernel

/-- The patterns at the edges of the accepted rates, and the first rate past the delay memory. -/
theorem witness_InitRejectsBadRates :
    ¬ rateWord (busyWith 1 0x00000000).pending.arg ∧ ¬ rateWord (busyWith 1 0x7F800000).pending.arg ∧
      rateWord (busyWith 1 0x486589BF).pending.arg ∧
      2 ^ 19 < bufferLength (busyWith 1 0x486589BF).pending.arg := by
  unfold rateWord; decide +kernel

/-- The smallest and the largest rate. -/
theorem witness_InitAllocatesAndZeroes :
    (rateWord (busyWith 1 0x00000001).pending.arg ∧ bufferLength (busyWith 1 0x00000001).pending.arg ≤ 2 ^ 19) ∧
      rateWord (busyWith 1 0x486589BE).pending.arg ∧ bufferLength (busyWith 1 0x486589BE).pending.arg ≤ 2 ^ 19 := by
  unfold rateWord; decide +kernel

theorem witness_ProcessErrorsInOrder : State.reset.ready = false ∧ small.ready = true ∧ 8192 < 8193 :=
  ⟨rfl, rfl, by decide⟩

theorem witness_ProcessWritesTheBlockAndTheCursor :
    small.ready = true ∧ 8192 ≤ 8192 ∧ small.cursor.toNat < small.buflen.toNat := ⟨rfl, by decide, by decide⟩

theorem witness_ProcessOfNothing : small.ready = true := rfl

theorem witness_MonoOutputsAreIdentical : smallMono.ready = true ∧ smallMono.mono = true ∧ 8192 ≤ 8192 :=
  ⟨rfl, rfl, by decide⟩

/-- The other memory differs in the first byte of SR, which R233 says is not read. -/
theorem witness_MonoDoesNotReadTheRightBlock :
    smallMono.ready = true ∧ smallMono.mono = true ∧ 8192 ≤ 8192 ∧
      ∀ a, a < sampleOffset .right 0 → (smallMono.samples.setByte 0x20000 1).byte a = smallMono.samples.byte a :=
  ⟨rfl, rfl, by decide, fun a h =>
    Memory.byte_setByte_other _ (by simp only [sampleOffset, Channel.base, Config.srBase] at h; omega) _⟩

/-- A rate for INIT; a ready state and the last index for SET_PRESET. -/
theorem witness_InitResetsTheHistory :
    (rateWord (busyWith 1 0x46AC4400).pending.arg ∧ bufferLength (busyWith 1 0x46AC4400).pending.arg ≤ 2 ^ 19) ∧
      small.ready = true ∧ 0 < small.buflen.toNat ∧ 9 ≤ 9 ∧ 9 ≠ small.preset.val := by
  unfold rateWord; decide +kernel

theorem witness_CommandsReachTheirStateAlone :
    exec (.setChannels 1) State.reset = .next { State.reset with mono := true, done := true } := rfl

theorem witness_TapIsTheMaskedUnsignedSum : 19 ≤ 19 ∧ 0 ≤ 19 := by decide

/-- A word that is no written tap of `small`. -/
theorem witness_KernelWritesItsTapsAlone : (2 : Nat) ∉ small.writtenTaps := by decide +kernel

theorem witness_CursorCountsSamples : small.cursor.toNat < small.buflen.toNat := by decide

/-- Two parts that fill the sample memories; between them SL[0] and SR[0] hold what SL[8191] and SR[8191] held. -/
theorem witness_ProcessSplitsAcrossBlocks :
    small.ready = true ∧ small.crush = 0 ∧ 8191 + 1 ≤ 8192 ∧
      ∀ c, ∀ j < 1, (((small.setSample .left 0 (small.sample .left 8191)).setSample .right 0
        (small.sample .right 8191)).samples).word (sampleOffset c j) = small.sample c (8191 + j) := by
  refine ⟨rfl, rfl, by decide, fun c j hj => ?_⟩
  obtain rfl : j = 0 := by omega
  change State.sample _ c 0 = _
  cases c
  · rw [sample_setSample_other _ (by decide) (by decide) (.inl (by decide)), sample_setSample_same]
  · rw [sample_setSample_same]

/-- A buffer of two words is the smallest in which the two reads of a filter differ. -/
theorem witness_SharedCrossTapsFollowTheOrder :
    2 ≤ ({ smallShared with buflen := 2 } : State).buflen.toNat ∧ smallShared.derived.S_mLDIFF = 0 ∧
      smallShared.derived.S_mRDIFF = 0 ∧ smallShared.derived.S_dLDIFF = 0 ∧ smallShared.derived.S_dRDIFF = 0 := by
  decide +kernel

/-- An input of -0.0 and one of the largest finite number. -/
theorem witness_SilentPresetStaysSilent :
    smallSilent.derived.silent ∧ 0 < smallSilent.buflen.toNat ∧ smallSilent.bufferZero ∧
      ∀ x ∈ [((0x80000000 : Word), (0x7F7FFFFF : Word))], f32Finite x.1 = true ∧ f32Finite x.2 = true := by
  refine ⟨⟨rfl, rfl, rfl, rfl, rfl, rfl, rfl, rfl, rfl, rfl⟩, by decide, fun i _ => ?_, ?_⟩
  · change Memory.word ⟨[], []⟩ (4 * i) = 0
    simp [Memory.word, Memory.byte, lookupCell, fillAt]
  intro x hx
  rw [List.mem_singleton.mp hx]
  decide +kernel

/-- A finite wet signal; an input of each kind. -/
theorem witness_IdentityMix :
    plainMix.wet = 0 ∧ plainMix.dry = 0x3F800000 ∧ plainMix.master = 0x3F800000 ∧ f32Finite 0xFF7FFFFF = true ∧
      ((0x7F800000 : Word) ≠ 0x80000000 ∧ f32Val 0x7F800000 ≠ .nan) ∧ f32Val 0x7FC00000 = .nan := by decide +kernel

theorem witness_DownsampleInterpolatesEvenSamples :
    [(1 : Word)].length < 2 ∧ 2 < [(1 : Word), 2, 3].length ∧ 2 ≤ [(1 : Word), 2, 3].length ∧
      2 ≤ [(1 : Word), 2].length ∧ (downsample 0 [1])[0]? = some 1 := by decide +kernel

/-- 0.5, a tie; the least pattern that is not finite. -/
theorem witness_RoundHalfAwayFromZero :
    f32Val 0x3F000000 = .fin false (2 ^ 148) ∧ f32Finite 0x7F800000 = false := by decide +kernel

theorem witness_QuantizeGivesExactMultiples :
    (((12 = 12 ∧ (0x45000000 : Word) = 0x45000000) ∨ (12 = 10 ∧ (0x45000000 : Word) = 0x44000000)) ∧
      f32Finite (f32Mul ⟨0, 0⟩ 0x39800000 0x45000000) = true) ∧
    ((10 = 12 ∧ (0x44000000 : Word) = 0x45000000) ∨ (10 = 10 ∧ (0x44000000 : Word) = 0x44000000)) ∧
      f32Finite (f32Mul ⟨0, 0⟩ 0xBA400000 0x44000000) = true := by decide +kernel

/-- Finite operands: the least number and the most negative one; a divisor that is not zero. -/
theorem witness_ArithmeticRoundsOnceToNearestEven :
    f32Val 0x00000001 = .fin false 1 ∧ f32Val 0xFF7FFFFF = .fin true ((2 ^ 24 - 1) * 2 ^ 253) ∧
      (2 ^ 24 - 1) * 2 ^ 253 ≠ 0 := by decide +kernel

/-- The least and the largest finite positive pattern. -/
theorem witness_FieldConversionsAreExact :
    (rateWord 0x00000001 ∧ rateWord 0x7F7FFFFF) ∧
      derive Params.default (Params.default.presetAt 9) 1 = derive Params.default (Params.default.presetAt 9) 1 ∧
      ∀ f : Half, (fun f => BitVec.ofNat 32 (scaleOffset (stretch 1) f)) f =
        BitVec.ofNat 32 (scaleOffset (stretch 1) f) :=
  ⟨by unfold rateWord; decide, rfl, fun _ => rfl⟩

/-- A second entry behind one for another rate; a point of the list's alpha at a rate it does not list. -/
theorem witness_RetuneIsTheIdentityAtTheNativeRate :
    ({ Params.default with retunePoints := [⟨1, 2, 3⟩, ⟨1, 4, 5⟩] } : Params).retunePoints =
        [⟨1, 2, 3⟩] ++ ⟨1, 4, 5⟩ :: [] ∧
      (∀ q ∈ [(⟨1, 2, 3⟩ : RetunePoint)], ¬ (q.alpha = 1 ∧ q.rate = 4)) ∧
      (∀ q ∈ [(⟨1, 2, 3⟩ : RetunePoint), ⟨1, 4, 5⟩], ¬ (q.alpha = 1 ∧ q.rate = 3)) ∧
      ∀ q ∈ [(⟨1, 2, 3⟩ : RetunePoint), ⟨1, 4, 5⟩], ¬ (q.alpha = gainWord 0x7FFF ∧ q.rate = 0x46AC4400) :=
  ⟨rfl, by decide +kernel, by decide +kernel, by decide +kernel⟩

theorem witness_PresetTableIsWellFormed : 9 < 10 ∧ 10 ≤ 10 := by decide

theorem witness_BufferLengthIsTheLeastPowerOfTwo :
    rateWord 0x7F7FFFFF ∧ requiredLength (stretch 0x46AC4400) ≤ 2 ^ 16 := by unfold rateWord; decide +kernel

theorem witness_ScaledOffsetsStayInTheBuffer :
    (Params.default.presetAt 8).offsetsBelowLongest = true ∧ rateWord 0x7F7FFFFF ∧ (Params.default.presetAt 8).mLSAME ∈ (Params.default.presetAt 8).offsets := by
  unfold rateWord; decide +kernel

theorem witness_StatusWriteClears : State.reset.resetLine = false ∧ (busyWith 0 0).resetLine = false := ⟨rfl, rfl⟩

theorem witness_CtrlAndArgWrites : State.reset.resetLine = false ∧ (busyWith 0 0).resetLine = false := ⟨rfl, rfl⟩

/-- The first and last aligned offset of each stretch. -/
theorem witness_UnmappedAndReadOnlyOffsets :
    State.reset.resetLine = false ∧ unmappedOffset 0x40 ∧ unmappedOffset 0xFFFC ∧ unmappedOffset 0x18000 ∧
      unmappedOffset 0x1FFFC ∧ unmappedOffset 0x28000 ∧ unmappedOffset 0x3FFFC ∧ readOnlyOffset 0x00 ∧
      readOnlyOffset 0x14 ∧ readOnlyOffset 0x3C ∧ 0x3FFFC % 4 = 0 := by
  unfold unmappedOffset readOnlyOffset; decide +kernel

/-- A halfword at an aligned offset, and a word at the last offset of the window. -/
theorem witness_WrongWidthOrAlignmentIsABusError :
    State.reset.resetLine = false ∧ (0x04 < 0x40000 ∧ (2 ≠ 4 ∨ 0x04 % 4 ≠ 0)) ∧
      0x3FFFF < 0x40000 ∧ (4 ≠ 4 ∨ 0x3FFFF % 4 ≠ 0) := by decide +kernel

theorem witness_ReadsHaveNoSideEffect :
    State.reset.resetLine = false ∧ 0x3FFFC < 0x40000 ∧ 0x3FFFC % 4 = 0 ∧ State.reset.busy = false := by
  decide +kernel

/-- An idle state, and a BUSY one at the edges of the open registers. -/
theorem witness_RegisterReads :
    (State.reset.resetLine = false ∧ State.reset.busy = false) ∧ (busyWith 0 0).resetLine = false ∧
      (0x10 ≤ 0x10 ∧ 0x38 ≤ 0x38) := ⟨⟨rfl, rfl⟩, rfl, by decide⟩

/-- The last sample of a channel, and another of the same channel and one of the other. -/
theorem witness_SampleWordsAreStored :
    State.reset.resetLine = false ∧ State.reset.busy = false ∧ 8191 < 8192 ∧
      (Channel.left ≠ .left ∨ 8190 ≠ 8191) ∧ (Channel.right ≠ .left ∨ 8191 ≠ 8191) := by decide +kernel

/-- The first and last closed register and sample word of each stretch. -/
theorem witness_ClosedReadsWhileBusyAreUnspecified :
    (busyWith 0 0).resetLine = false ∧ (busyWith 0 0).busy = true ∧ (0x14 ≤ 0x14 ∧ 0x14 ≤ 0x34) ∧
      (0x14 ≤ 0x34 ∧ 0x34 ≤ 0x34) ∧ (0x10000 ≤ 0x17FFC ∧ 0x17FFC < 0x18000) ∧
      (0x20000 ≤ 0x27FFC ∧ 0x27FFC < 0x28000) ∧ 0x27FFC % 4 = 0 := by decide +kernel

theorem witness_SampleWriteWhileBusy :
    (busyWith 0x02 0).resetLine = false ∧ (busyWith 0x02 0).busy = true ∧ 8191 < 8192 ∧
      decode (busyWith 0x02 0).pending.cmd = .ok (.setPreset 0) := ⟨rfl, rfl, by decide, rfl⟩

/-- A state under reset, and the edge of the window. -/
theorem witness_NoAccessUnderReset : underReset.resetLine = true ∧ 0x3FFFF < 0x40000 := by decide +kernel

theorem witness_ResetFromAnyState :
    (busyWith 0 0).busy = true ∧ (busyWith 0 0).resetLine = false ∧ (busyWith 0 0).hazard = false := ⟨rfl, rfl, rfl⟩

/-- A step of a ready block, on an empty schedule and on a host access. -/
theorem witness_ReadyStaysUntilReset :
    step small = .next small ∧ small.ready = true ∧ (∀ e rest, small.schedule = e :: rest → e.isReset = false) :=
  ⟨rfl, rfl, fun _ _ h => nomatch h⟩

theorem witness_StepKeepsSound : State.reset.Sound ∧ step State.reset = .next State.reset := by
  refine ⟨?_, rfl⟩
  constructor <;> decide +kernel

end Sys2Proof.Tests
end

section
/-! PROOFS. The host's register writes as steps of the machine, and O44: what a write to STATUS clears and the width of
the word that STATUS reads as (10_state.md R32 to R37). -/

namespace Sys2Proof.Machine

/-! ### Register writes -/

/-- Every register lies in the window, at a multiple of four (R30, R70). -/
theorem Reg.offset_in_window (r : Reg) : r.offset < Config.windowBytes ∧ r.offset % 4 = 0 := by
  cases r <;> decide

/-- No two registers share an offset, so the window's map finds each at its own (R30). -/
@[simp] theorem target_regOffset (r : Reg) : target r.offset = .reg r := by
  cases r <;> rfl

@[simp] theorem busWrite_regOffset (s : State) (r : Reg) (v : Word) : s.busWrite r.offset v = s.writeReg v r := by
  simp only [State.busWrite, target_regOffset]

/-- Out of reset, an aligned 32-bit write in the window completes with its effect (R71, R73). -/
theorem hostAccess_write_aligned {s : State} {off : Nat} (v : Word) (hreset : s.resetLine = false)
    (hwindow : off < Config.windowBytes) (haligned : off % 4 = 0) :
    hostAccess (.write 4 off v) s = .next { s.busWrite off v with response := .written } := by
  have haccepted : accepted 4 off = true := by simp [accepted, haligned]
  simp [hostAccess, Nat.not_le.mpr hwindow, hreset, haccepted]

/-- A host write to a register, as a step of the machine out of reset. -/
theorem step_write_reg {s : State} (rest : List Event) (r : Reg) (v : Word) (hreset : s.resetLine = false) :
    step { s with schedule := .access (.write 4 r.offset v) :: rest } =
      .next { ({ s with schedule := rest } : State).writeReg v r with response := .written } := by
  obtain ⟨hwindow, haligned⟩ := r.offset_in_window
  rw [step_event rfl, ← busWrite_regOffset]
  exact hostAccess_write_aligned v hreset hwindow haligned

/-! ### The STATUS register -/

/-- The masked flags of `writeStatus` as R37's conditional assignments. -/
theorem writeStatus_eq (s : State) (v : Word) :
    s.writeStatus v = { s with done := if v.getLsbD 1 then false else s.done,
                               err := if v.getLsbD 3 then false else s.err,
                               errcode := if v.getLsbD 3 then .none else s.errcode } := by
  have hmask (flag clear : Bool) : (flag && !clear) = if clear then false else flag := by cases clear <;> simp
  simp only [State.writeStatus, hmask]

theorem bit_le_one (b : Bool) : bit b ≤ 1 := by
  cases b <;> decide

/-- The codes 7 to 15 are never produced (60_exceptions.md R251). -/
theorem ErrCode.code_le_six (e : ErrCode) : e.code ≤ 6 := by
  cases e <;> decide

/-- Four flags and a code of four bits leave bits [31:8] of STATUS zero (R37). -/
theorem statusWord_lt (s : State) : s.statusWord.toNat < 256 := by
  have hbusy := bit_le_one s.busy
  have hdone := bit_le_one s.done
  have hready := bit_le_one s.ready
  have herr := bit_le_one s.err
  have hcode := s.errcode.code_le_six
  rw [State.statusWord, BitVec.toNat_ofNat]
  omega

/-- Settles O44: a STATUS write is a register write (`step_write_reg`) whose effect is `writeStatus_eq`. -/
theorem statusWriteClears : Obligations.StatusWriteClears := by
  refine ⟨fun s rest v hreset => ?_, statusWord_lt⟩
  calc step { s with schedule := .access (.write 4 0x04 v) :: rest }
      = .next { ({ s with schedule := rest } : State).writeStatus v with response := .written } :=
        step_write_reg rest .status v hreset
    _ = _ := by rw [writeStatus_eq]

end Sys2Proof.Machine
end

section
/-! PROOFS. Aligned host accesses as steps of the machine, and O47: the offsets of the window that a write leaves
without effect and those that read 0 (20_memory.md R72, R74). -/

namespace Sys2Proof.Machine

/-! ### Aligned accesses -/

/-- Out of reset, an aligned 32-bit read in the window is answered by the window's map (R71, R73). -/
theorem hostAccess_read_aligned {s : State} {off : Nat} (hreset : s.resetLine = false)
    (hwindow : off < Config.windowBytes) (haligned : off % 4 = 0) :
    hostAccess (.read 4 off) s = .next (s.busRead off) := by
  have haccepted : accepted 4 off = true := by simp [accepted, haligned]
  simp [hostAccess, Nat.not_le.mpr hwindow, hreset, haccepted]

theorem step_read_aligned {s : State} (rest : List Event) {off : Nat} (hreset : s.resetLine = false)
    (hwindow : off < Config.windowBytes) (haligned : off % 4 = 0) :
    step { s with schedule := .access (.read 4 off) :: rest } =
      .next (({ s with schedule := rest } : State).busRead off) := by
  rw [step_event rfl]
  exact hostAccess_read_aligned hreset hwindow haligned

theorem step_write_aligned {s : State} (rest : List Event) {off : Nat} (v : Word) (hreset : s.resetLine = false)
    (hwindow : off < Config.windowBytes) (haligned : off % 4 = 0) :
    step { s with schedule := .access (.write 4 off v) :: rest } =
      .next { ({ s with schedule := rest } : State).busWrite off v with response := .written } := by
  rw [step_event rfl]
  exact hostAccess_write_aligned v hreset hwindow haligned

/-! ### Unmapped offsets -/

/-- The registers end at BUFCAP (10_state.md R30). -/
theorem Reg.offset_le (r : Reg) : r.offset ≤ 0x3C := by
  cases r <;> decide

theorem unmappedOffset.in_window {off : Nat} (h : unmappedOffset off) : off < Config.windowBytes := by
  unfold unmappedOffset at h
  unfold Config.windowBytes
  omega

/-- No register lies above BUFCAP, and the unmapped stretches leave out the rows of SL and SR below BLOCK_MAX
(R70, R74). -/
theorem target_of_unmappedOffset {off : Nat} (h : unmappedOffset off) : target off = .unmapped := by
  unfold unmappedOffset at h
  have hreg : Reg.all.find? (fun r => r.offset == off) = none := by
    refine List.find?_eq_none.mpr fun r _ hr => ?_
    have hoff : r.offset = off := by simpa using hr
    have hle := r.offset_le
    omega
  have hleft : ¬(Config.slBase ≤ off ∧ off < Config.slBase + 4 * Config.blockMax) := by
    simp only [Config.slBase, Config.blockMax]
    omega
  have hright : ¬(Config.srBase ≤ off ∧ off < Config.srBase + 4 * Config.blockMax) := by
    simp only [Config.srBase, Config.blockMax]
    omega
  simp only [target, hreg, if_neg hleft, if_neg hright]

theorem busRead_of_unmappedOffset (s : State) {off : Nat} (h : unmappedOffset off) : s.busRead off = s.answer 0 := by
  simp only [State.busRead, target_of_unmappedOffset h]

theorem busWrite_of_unmappedOffset (s : State) {off : Nat} (v : Word) (h : unmappedOffset off) :
    s.busWrite off v = s := by
  simp only [State.busWrite, target_of_unmappedOffset h]

/-! ### Read-only registers -/

/-- The registers take up every aligned offset to BUFCAP (10_state.md R30). -/
theorem Reg.exists_offset_eq {off : Nat} (hle : off ≤ 0x3C) (haligned : off % 4 = 0) : ∃ r : Reg, r.offset = off := by
  have hall : ∀ k < 16, ∃ r ∈ Reg.all, r.offset = 4 * k := by decide
  obtain ⟨r, _, hr⟩ := hall (off / 4) (by omega)
  exact ⟨r, by omega⟩

theorem readOnlyOffset.le {off : Nat} (h : readOnlyOffset off) : off ≤ 0x3C := by
  unfold readOnlyOffset at h
  omega

/-- The four registers that a write changes, STATUS, CTRL, ARG and CMD, lie between ID and RATE (R30, R72). -/
theorem writeReg_of_readOnlyOffset (s : State) (v : Word) {r : Reg} (h : readOnlyOffset r.offset) :
    s.writeReg v r = s := by
  unfold readOnlyOffset at h
  cases r
  case status | ctrl | arg | cmd => simp [Reg.offset] at h
  all_goals rfl

theorem busWrite_of_readOnlyOffset (s : State) {off : Nat} (v : Word) (h : readOnlyOffset off)
    (haligned : off % 4 = 0) : s.busWrite off v = s := by
  obtain ⟨r, rfl⟩ := Reg.exists_offset_eq h.le haligned
  rw [busWrite_regOffset, writeReg_of_readOnlyOffset s v h]

/-- Settles O47: the access is a step of the window's map (`step_write_aligned`, `step_read_aligned`), which these
offsets leave without effect or answer with 0, BUSY or not. -/
theorem unmappedAndReadOnlyOffsets : Obligations.UnmappedAndReadOnlyOffsets := by
  intro s rest off v hreset haligned
  refine ⟨?write, fun hunmapped => ?read⟩
  case write =>
    rintro (hunmapped | hreadOnly)
    · rw [step_write_aligned rest v hreset hunmapped.in_window haligned, busWrite_of_unmappedOffset _ v hunmapped]
    · have hwindow : off < Config.windowBytes := Nat.lt_of_le_of_lt hreadOnly.le (by decide)
      rw [step_write_aligned rest v hreset hwindow haligned, busWrite_of_readOnlyOffset _ v hreadOnly haligned]
  case read =>
    rw [step_read_aligned rest hreset hunmapped.in_window haligned, busRead_of_unmappedOffset _ hunmapped]
    rfl

end Sys2Proof.Machine
end

section
/-! PROOFS. What the decoder reads from a word, the fields a command does not use, and reserved opcodes
(30_encoding.md R101 to R106): O8 and O2. -/

namespace Sys2Proof

/-! ### Decoding -/

/-- The field OPC is the low eight bits (R101). -/
theorem opcField_toNat (w : Word) : (opcField w).toNat = w.toNat % 256 := by
  simp [opcField]

/-- No word with a defined opcode is illegal (R104). -/
theorem exists_decode_eq_ok {w : Word} (h : (opcField w).toNat ≤ 0x08) : ∃ i, decode w = .ok i := by
  unfold decode
  interval_cases (opcField w).toNat <;> exact ⟨_, rfl⟩

/-- The opcodes above PROCESS are reserved (R105). -/
theorem decode_of_reserved {w : Word} (h : 0x09 ≤ (opcField w).toNat) :
    decode w = .error (.reservedOpcode (opcField w)) := by
  unfold decode
  split
  case h_10 => rfl
  all_goals omega

/-- The operand of a command, if it has one, is the one in its field of the word (R102, R103). -/
def Instr.operandIn (w : Word) : Instr → Prop
  | .nop | .init | .setWet | .setDry | .setMaster => True
  | .setPreset imm | .setCrush imm | .setChannels imm => immField w = imm
  | .process n => nField w = n

/-- A word is a command exactly when it has its opcode and its operand: no other field counts (R103, R104). -/
theorem decode_eq_ok_iff {w : Word} {i : Instr} :
    decode w = .ok i ↔ (opcField w).toNat = i.opcode ∧ i.operandIn w := by
  constructor
  case mp =>
    intro h
    unfold decode at h
    split at h <;> cases h
    all_goals exact ⟨‹(opcField w).toNat = _›, by trivial⟩
  case mpr =>
    rintro ⟨hopc, hoperand⟩
    cases i
    case nop | init | setWet | setDry | setMaster => simp only [decode, hopc, Instr.opcode]
    case setPreset | setCrush | setChannels | process =>
      simp only [Instr.operandIn] at hoperand
      simp only [decode, hopc, Instr.opcode, hoperand]

end Sys2Proof

namespace Sys2Proof.Machine

/-! ### Unused fields -/

/-- A mask that is all ones in a field leaves that field of a word. -/
theorem extractLsb'_and_of_ones (w : Word) {m : Word} {start len : Nat}
    (h : m.extractLsb' start len = BitVec.allOnes len) :
    (w &&& m).extractLsb' start len = w.extractLsb' start len := by
  rw [BitVec.extractLsb'_and, h, BitVec.and_allOnes]

/-- Every command uses OPC (R103). -/
theorem opcField_and_usedBits (w : Word) (i : Instr) : opcField (w &&& usedBits i) = opcField w :=
  extractLsb'_and_of_ones w (by cases i <;> simp only [usedBits] <;> decide)

/-- A command uses the field that holds its operand (R101, R103). -/
theorem operandIn_and_usedBits (w : Word) (i : Instr) : i.operandIn (w &&& usedBits i) ↔ i.operandIn w := by
  cases i
  case nop | init | setWet | setDry | setMaster => exact Iff.rfl
  case setPreset | setCrush | setChannels =>
    have himm := extractLsb'_and_of_ones w (m := 0x0000FFFF) (start := 8) (len := 8) (by decide)
    simp only [Instr.operandIn, immField, usedBits, himm]
  case process =>
    have hn := extractLsb'_and_of_ones w (m := 0xFFFF00FF) (start := 16) (len := 16) (by decide)
    simp only [Instr.operandIn, nField, usedBits, hn]

/-- Zeroing its unused fields leaves a word the same command (R104). -/
theorem decode_and_usedBits {w : Word} {i : Instr} (h : decode w = .ok i) : decode (w &&& usedBits i) = .ok i := by
  rw [decode_eq_ok_iff] at h ⊢
  rwa [opcField_and_usedBits, operandIn_and_usedBits]

/-! ### Executing a word -/

theorem execWord_of_decode {w : Word} {i : Instr} (h : decode w = .ok i) (s : State) : execWord w s = exec i s := by
  simp only [execWord, h]

theorem execWord_of_reserved {w : Word} (h : 0x09 ≤ (opcField w).toNat) (s : State) :
    execWord w s = .next (s.raiseError .badOpcode) := by
  simp only [execWord, decode_of_reserved h]

/-- Settles O8: a reserved opcode decodes to no command, and raising an error sets these four registers alone. -/
theorem reservedOpcodeRaisesBadOpcode : Obligations.ReservedOpcodeRaisesBadOpcode := by
  intro w s hreserved
  rw [← opcField_toNat] at hreserved
  exact execWord_of_reserved hreserved s

/-- Settles O2: the masked word is the same command (`decode_and_usedBits`), so it executes as that command. -/
theorem unusedFieldsAreIgnored : Obligations.UnusedFieldsAreIgnored := by
  refine ⟨fun w i hdecode => ?_, fun w hdefined => exists_decode_eq_ok hdefined⟩
  have hmasked : decode (w &&& usedBits i) = .ok i := decode_and_usedBits hdecode
  refine ⟨hmasked, fun s => ?_⟩
  calc execWord (w &&& usedBits i) s = exec i s := execWord_of_decode hmasked s
    _ = execWord w s := (execWord_of_decode hdecode s).symm

end Sys2Proof.Machine
end

section
/-! PROOFS. The control commands (41_control_commands.md): NOP (O11), the three setters of gains (O12), and SET_PRESET
with the load it does after INIT (O15). -/

namespace Sys2Proof

/-! ### Decoding -/

/-- The field IMM8 is the second byte (R101). -/
theorem immField_toNat (w : Word) : immField w = w.toNat / 256 % 256 := by
  simp [immField, BitVec.extractLsb'_toNat, Nat.shiftRight_eq_div_pow]

/-- A word whose low byte is a command's opcode, and whose field holds its operand, is that command (R103). -/
theorem decode_of_mod {w : Word} {i : Instr} (hopc : w.toNat % 256 = i.opcode) (hoperand : i.operandIn w) :
    decode w = .ok i :=
  decode_eq_ok_iff.mpr ⟨(opcField_toNat w).trans hopc, hoperand⟩

end Sys2Proof

namespace Sys2Proof.Machine

/-! ### Zeroing and loading -/

/-- Zeroing the buffer stores no byte past its last word (20_memory.md R78). -/
theorem delay_byte_zeroDelay_above (s : State) {a : Nat} (h : 4 * s.buflen.toNat ≤ a) :
    s.zeroDelay.delay.byte a = s.delay.byte a :=
  Memory.byte_fillBelow_above _ h _

/-- A load changes DERIVED and B alone (40_preset_load.md R138). -/
theorem loadPreset_eq (s : State) (i : Fin 10) :
    s.loadPreset i =
      { s with derived := derive s.params (s.params.presetAt i) s.rate, delay := (s.loadPreset i).delay } := rfl

theorem delayWord_loadPreset_below (s : State) (i : Fin 10) {k : Nat} (h : k < s.buflen.toNat) :
    (s.loadPreset i).delayWord k = 0 :=
  delayWord_zeroDelay_below _ h

theorem delay_byte_loadPreset_above (s : State) (i : Fin 10) {a : Nat} (h : 4 * s.buflen.toNat ≤ a) :
    (s.loadPreset i).delay.byte a = s.delay.byte a :=
  delay_byte_zeroDelay_above _ h

/-! ### The commands without an operand field -/

theorem exec_nop (s : State) : exec .nop s = .next s.complete := rfl

theorem exec_setWet (s : State) : exec .setWet s = .next { s with wet := s.pending.arg }.complete := rfl

theorem exec_setDry (s : State) : exec .setDry s = .next { s with dry := s.pending.arg }.complete := rfl

theorem exec_setMaster (s : State) : exec .setMaster s = .next { s with master := s.pending.arg }.complete := rfl

/-- Settles O11: NOP is `complete()`, which sets BUSY and DONE alone. -/
theorem nopCompletes : Obligations.NopCompletes :=
  ⟨fun _ hopc => decode_of_mod hopc trivial, exec_nop⟩

/-- Settles O12: each setter stores PENDING's operand before `complete()`. -/
theorem gainSettersStoreTheOperand : Obligations.GainSettersStoreTheOperand :=
  ⟨fun _ hopc => decode_of_mod hopc trivial, fun _ hopc => decode_of_mod hopc trivial,
    fun _ hopc => decode_of_mod hopc trivial, fun s => ⟨exec_setWet s, exec_setDry s, exec_setMaster s⟩⟩

/-! ### SET_PRESET -/

/-- SET_PRESET of an index past the table, or of the selected one, is `complete()` (R152). -/
theorem exec_setPreset_ignored {imm : Nat} {s : State} (h : 9 < imm ∨ imm = s.preset.val) :
    exec (.setPreset imm) s = .next s.complete := by
  change execSetPreset imm s = _
  unfold execSetPreset
  split_ifs with hrange hselected
  case pos => rfl
  case neg => omega
  case neg => rfl

/-- SET_PRESET of another index of the table switches to it (R152). -/
theorem exec_setPreset_switches (i : Fin 10) {s : State} (h : i ≠ s.preset) :
    exec (.setPreset i.val) s = .next (s.switchPreset i).complete := by
  change execSetPreset i.val s = _
  rw [execSetPreset, dif_pos i.isLt, if_neg (Fin.val_ne_of_ne h)]

/-- Before INIT a switch records the index alone (R152). -/
theorem switchPreset_of_not_ready (i : Fin 10) {s : State} (h : s.ready = false) :
    s.switchPreset i = { s with preset := i } := by
  simp [State.switchPreset, h]

/-- After INIT a switch also loads the preset (R152). -/
theorem switchPreset_of_ready (i : Fin 10) {s : State} (h : s.ready = true) :
    s.switchPreset i = State.loadPreset { s with preset := i } i := by
  simp [State.switchPreset, h]

/-- Settles O15: an ignored index completes; another one is recorded, and after INIT its preset is loaded, which is
what `loadPreset_eq` and the two lemmas on the delay memory after a load say. -/
theorem setPresetSwitches : Obligations.SetPresetSwitches := by
  refine ⟨fun w hopc => decode_of_mod hopc (immField_toNat w), fun imm s => ⟨exec_setPreset_ignored, ?_⟩⟩
  intro hrange hother
  obtain ⟨i, rfl⟩ : ∃ i : Fin 10, i.val = imm := ⟨⟨imm, by omega⟩, rfl⟩
  have hexec : exec (.setPreset i.val) s = .next (s.switchPreset i).complete :=
    exec_setPreset_switches i (Fin.ne_of_val_ne hother)
  refine ⟨i, rfl, fun hready => ?_, fun hready => ?_⟩
  · rw [hexec, switchPreset_of_not_ready i hready]
    rfl
  · rw [switchPreset_of_ready i hready] at hexec
    exact ⟨_, hexec, congrArg State.complete (loadPreset_eq { s with preset := i } i),
      fun _ hk => delayWord_loadPreset_below { s with preset := i } i hk,
      fun _ ha => delay_byte_loadPreset_above { s with preset := i } i ha⟩

end Sys2Proof.Machine
end

section
/-! PROOFS. SET_CHANNELS (44_process.md): O14. -/

namespace Sys2Proof.Machine

/-- SET_CHANNELS records whether the count is 1, and is otherwise `complete()` (R230). -/
theorem exec_setChannels (imm : Nat) (s : State) :
    exec (.setChannels imm) s = .next { s with mono := decide (imm = 1) }.complete := rfl

theorem exec_setChannels_mono (s : State) : exec (.setChannels 1) s = .next { s with mono := true }.complete :=
  exec_setChannels 1 s

/-- A count of 0, and one of 2 or more, selects stereo (R230). -/
theorem exec_setChannels_stereo {imm : Nat} (h : imm ≠ 1) (s : State) :
    exec (.setChannels imm) s = .next { s with mono := false }.complete := by
  rw [exec_setChannels, decide_eq_false h]

/-- Settles O14: the two cases of the count, each followed by `complete()`, which sets BUSY and DONE alone. -/
theorem setChannelsSelectsMono : Obligations.SetChannelsSelectsMono :=
  ⟨fun w hopc => decode_of_mod hopc (immField_toNat w),
    fun s => ⟨exec_setChannels_mono s, fun _ hcount => exec_setChannels_stereo hcount s⟩⟩

end Sys2Proof.Machine
end

section
/-! PROOFS. The three fields of a command word, and that decoding and encoding agree (30_encoding.md R101 to R109): O1,
O3 and O4. -/

namespace Sys2Proof

/-! ### Fields -/

/-- The field N16 is the upper half of the word (R101). -/
theorem nField_toNat (w : Word) : nField w = w.toNat / 65536 := by
  have hw := w.isLt
  simp only [nField, BitVec.extractLsb'_toNat, Nat.shiftRight_eq_div_pow]
  omega

/-- OPC, IMM8 and N16 make up the word (R101). -/
theorem word_ext_fields {v w : Word} (hopc : opcField v = opcField w) (himm : immField v = immField w)
    (hn : nField v = nField w) : v = w := by
  have hopc' := congrArg BitVec.toNat hopc
  rw [opcField_toNat, opcField_toNat] at hopc'
  rw [immField_toNat, immField_toNat] at himm
  rw [nField_toNat, nField_toNat] at hn
  apply BitVec.eq_of_toNat_eq
  omega

theorem formatC_toNat (n imm opc : Nat) :
    (formatC n imm opc).toNat = n % 2 ^ 16 * 2 ^ 16 + imm % 2 ^ 8 * 2 ^ 8 + opc % 2 ^ 8 := by
  rw [formatC, BitVec.toNat_ofNat]
  omega

@[simp] theorem immField_formatC (n imm opc : Nat) : immField (formatC n imm opc) = imm % 256 := by
  rw [immField_toNat, formatC_toNat]
  omega

@[simp] theorem nField_formatC (n imm opc : Nat) : nField (formatC n imm opc) = n % 65536 := by
  rw [nField_toNat, formatC_toNat]
  omega

theorem opcField_encode (i : Instr) : (opcField (encode i)).toNat = i.opcode := by
  cases i
  case nop => exact Laws.OpcodeField.nop.1
  case init => exact Laws.OpcodeField.init.1
  case setPreset imm => exact (Laws.OpcodeField.setPreset imm).1
  case setWet => exact Laws.OpcodeField.setWet.1
  case setDry => exact Laws.OpcodeField.setDry.1
  case setMaster => exact Laws.OpcodeField.setMaster.1
  case setCrush imm => exact (Laws.OpcodeField.setCrush imm).1
  case setChannels imm => exact (Laws.OpcodeField.setChannels imm).1
  case process n => exact (Laws.OpcodeField.process n).1

/-! ### Decoding an encoding -/

/-- An operand that fits its field is the one in the field of the encoding (R102). -/
theorem operandIn_encode {i : Instr} (h : i.wellFormed = true) : i.operandIn (encode i) := by
  cases i
  case nop | init | setWet | setDry | setMaster => trivial
  case setPreset imm | setCrush imm | setChannels imm =>
    have hfits : imm < 256 := by simpa [Instr.wellFormed] using h
    simp only [Instr.operandIn, encode, immField_formatC, Nat.mod_eq_of_lt hfits]
  case process n =>
    have hfits : n < 65536 := by simpa [Instr.wellFormed] using h
    simp only [Instr.operandIn, encode, nField_formatC, Nat.mod_eq_of_lt hfits]

theorem decode_encode {i : Instr} (h : i.wellFormed = true) : decode (encode i) = .ok i :=
  decode_eq_ok_iff.mpr ⟨opcField_encode i, operandIn_encode h⟩

/-! ### Encoding what a word decodes to -/

/-- An operand read from a field fits it (R102). -/
theorem wellFormed_of_operandIn {w : Word} {i : Instr} (h : i.operandIn w) : i.wellFormed = true := by
  have himm := immField_toNat w
  have hn := nField_toNat w
  have hw := w.isLt
  cases i
  case nop | init | setWet | setDry | setMaster => rfl
  case setPreset | setCrush | setChannels | process =>
    simp only [Instr.operandIn] at h
    simp only [Instr.wellFormed, decide_eq_true_eq]
    omega

/-- The mask that keeps the bits a command uses is zero in the field IMM8 of a command without such an operand, and the
encoding has zero there (R104, R107). -/
theorem immField_encode {w : Word} {i : Instr} (h : i.operandIn w) :
    immField (encode i) = immField (w &&& Machine.usedBits i) := by
  have hmod : immField w % 256 = immField w := by rw [immField_toNat, Nat.mod_mod]
  have hunused {m : Word} (hm : m.extractLsb' 8 8 = 0) : immField (w &&& m) = 0 := by
    simp [immField, BitVec.extractLsb'_and, hm]
  cases i
  case setPreset | setCrush | setChannels =>
    rw [(Machine.operandIn_and_usedBits w _).mpr h]
    rw [Instr.operandIn] at h
    rw [encode, immField_formatC, ← h, hmod]
  all_goals rw [Machine.usedBits, hunused (by decide), encode, immField_formatC]

/-- As `immField_encode`, for the field N16. -/
theorem nField_encode {w : Word} {i : Instr} (h : i.operandIn w) :
    nField (encode i) = nField (w &&& Machine.usedBits i) := by
  have hmod : nField w % 65536 = nField w := Nat.mod_eq_of_lt (by have := w.isLt; rw [nField_toNat]; omega)
  have hunused {m : Word} (hm : m.extractLsb' 16 16 = 0) : nField (w &&& m) = 0 := by
    simp [nField, BitVec.extractLsb'_and, hm]
  cases i
  case process =>
    rw [(Machine.operandIn_and_usedBits w _).mpr h]
    rw [Instr.operandIn] at h
    rw [encode, nField_formatC, ← h, hmod]
  all_goals rw [Machine.usedBits, hunused (by decide), encode, nField_formatC]

/-- A word that decodes is the encoding of its command but for unused bits (R104, R107). -/
theorem encode_of_decode {w : Word} {i : Instr} (h : decode w = .ok i) : encode i = w &&& Machine.usedBits i := by
  obtain ⟨hopc, hoperand⟩ := decode_eq_ok_iff.mp h
  refine word_ext_fields ?_ (immField_encode hoperand) (nField_encode hoperand)
  rw [Machine.opcField_and_usedBits]
  exact BitVec.eq_of_toNat_eq ((opcField_encode i).trans hopc.symm)

/-- Settles O1: `decode_encode` one way; the other way the word's three fields are those of the encoding. -/
theorem decodeAndEncodeAgree : Obligations.DecodeAndEncodeAgree :=
  ⟨fun _ hwf => decode_encode hwf, fun _ _ hdecode =>
    ⟨wellFormed_of_operandIn (decode_eq_ok_iff.mp hdecode).2, encode_of_decode hdecode⟩⟩

/-! ### The opcode map and the examples -/

/-- Settles O3: a defined opcode decodes to its row of the map (`decode_of_mod`), with the operand in its field; the rest
is reserved (`decode_of_reserved`). -/
theorem opcodeMapIsTotal : Obligations.OpcodeMapIsTotal := by
  intro w
  have himm := immField_toNat w
  refine ⟨fun h => decode_of_mod h trivial, fun h => decode_of_mod h trivial, fun h => decode_of_mod h himm,
    fun h => decode_of_mod h trivial, fun h => decode_of_mod h trivial, fun h => decode_of_mod h trivial,
    fun h => decode_of_mod h himm, fun h => decode_of_mod h himm, fun h => decode_of_mod h (nField_toNat w),
    fun h => ?_⟩
  have hopc : opcField w = BitVec.ofNat 8 w.toNat := BitVec.eq_of_toNat_eq (by rw [opcField_toNat, BitVec.toNat_ofNat])
  rw [decode_of_reserved (by rwa [opcField_toNat]), hopc]

/-- An example of the spec: the encoding of a well-formed command, which decodes to it. -/
theorem decode_and_encode_eq {i : Instr} {w : Word} (hwf : i.wellFormed = true) (h : encode i = w) :
    decode w = .ok i ∧ encode i = w :=
  ⟨h ▸ decode_encode hwf, h⟩

/-- Settles O4: each word is computed by the encoder, and decodes by O1. -/
theorem specEncodingExamples : Obligations.SpecEncodingExamples := by
  obtain ⟨nop, nop'⟩ := decode_and_encode_eq (i := .nop) (w := 0x00000000) rfl rfl
  obtain ⟨init, init'⟩ := decode_and_encode_eq (i := .init) (w := 0x00000001) rfl rfl
  obtain ⟨preset4, preset4'⟩ := decode_and_encode_eq (i := .setPreset 4) (w := 0x00000402) rfl rfl
  obtain ⟨preset9, preset9'⟩ := decode_and_encode_eq (i := .setPreset 9) (w := 0x00000902) rfl rfl
  obtain ⟨wet, wet'⟩ := decode_and_encode_eq (i := .setWet) (w := 0x00000003) rfl rfl
  obtain ⟨dry, dry'⟩ := decode_and_encode_eq (i := .setDry) (w := 0x00000004) rfl rfl
  obtain ⟨master, master'⟩ := decode_and_encode_eq (i := .setMaster) (w := 0x00000005) rfl rfl
  obtain ⟨crush, crush'⟩ := decode_and_encode_eq (i := .setCrush 2) (w := 0x00000206) rfl rfl
  obtain ⟨mono, mono'⟩ := decode_and_encode_eq (i := .setChannels 1) (w := 0x00000107) rfl rfl
  obtain ⟨block4096, block4096'⟩ := decode_and_encode_eq (i := .process 4096) (w := 0x10000008) rfl rfl
  obtain ⟨block4, block4'⟩ := decode_and_encode_eq (i := .process 4) (w := 0x00040008) rfl rfl
  have h48000 : Machine.f32OfNat 48000 = 0x473B8000 := by decide +kernel
  have h22050 : Machine.f32OfNat 22050 = 0x46AC4400 := by decide +kernel
  have hone : Machine.f32OfNat 1 = 0x3F800000 := by decide +kernel
  exact ⟨nop, nop', init, init', h48000, h22050, preset4, preset4', preset9, preset9', wet, wet', hone, dry, dry',
    master, master', crush, crush', mono, mono', block4096, block4096', block4, block4'⟩

end Sys2Proof
end

section
/-! PROOFS. The taps and the kernel (20_memory.md R77, 42_reverb_kernel.md): what one stage reads and writes (O26, O27,
O31), which words of B one sample writes (O28), and where a run of samples leaves the cursor (O25, O29). -/

namespace Sys2Proof.Machine

/-! ### Taps -/

/-- The 32-bit sum wraps as unsigned words do, which leaves its remainder modulo a power of two (R77). -/
theorem tapIndex_two_pow {k : Nat} (hk : k ≤ 19) (o c x : Word) :
    tapIndex (2 ^ k) c.toNat o.toNat x.toNat = ((o + c - x) &&& BitVec.ofNat 32 (2 ^ k - 1)).toNat := by
  have hdvd : ((2 ^ k : Nat) : Int) ∣ 2 ^ 32 := by exact_mod_cast Nat.pow_dvd_pow 2 (by omega : k ≤ 32)
  have hwrap : ((o + c - x).toNat : Int) = ((o.toNat : Int) + c.toNat - x.toNat) % 2 ^ 32 := by
    have hx := x.isLt
    rw [BitVec.toNat_sub, BitVec.toNat_add]
    omega
  have hmask : (BitVec.ofNat 32 (2 ^ k - 1)).toNat = 2 ^ k - 1 := by
    have hle : 2 ^ k ≤ 2 ^ 19 := Nat.pow_le_pow_right (by decide) hk
    rw [BitVec.toNat_ofNat, Nat.mod_eq_of_lt (by omega)]
  rw [BitVec.toNat_and, hmask, Nat.and_two_pow_sub_one_eq_mod, tapIndex, ← Int.emod_emod_of_dvd _ hdvd, ← hwrap,
    ← Int.natCast_mod, Int.toNat_natCast]

/-- Settles O25: the mask is the remainder (`tapIndex_two_pow`), which is below the buffer's length. -/
theorem tapIsTheMaskedUnsignedSum : Obligations.TapIsTheMaskedUnsignedSum :=
  fun k hk o c x => ⟨tapIndex_two_pow hk o c x, tapIndex_lt (Nat.two_pow_pos k) _ _ _⟩

/-- Taps depend on BUFLEN and CURSOR alone, which a store in B keeps. -/
@[simp] theorem tapA_setDelayWord (s : State) (i : Nat) (v o : Word) : (s.setDelayWord i v).tapA o = s.tapA o := rfl
@[simp] theorem tapA_reflect (s : State) (t : NanTag) (inp wall tap o : Word) :
    (s.reflect t inp wall tap).tapA o = s.tapA o := rfl
@[simp] theorem tapA1_reflect (s : State) (t : NanTag) (inp wall tap o : Word) :
    (s.reflect t inp wall tap).tapA1 o = s.tapA1 o := rfl
@[simp] theorem tapA_allPass (s : State) (t : NanTag) (x mo d g o : Word) :
    (s.allPass t x mo d g).1.tapA o = s.tapA o := rfl

/-- In a buffer of two words or more, the current position and the one behind it are different words. -/
theorem tapA1_ne_tapA {s : State} (h : 2 ≤ s.buflen.toNat) (o : Word) : s.tapA1 o ≠ s.tapA o := by
  intro heq
  simp only [State.tapA1, State.tapA, tapIndex] at heq
  have hlen : (2 : Int) ≤ s.buflen.toNat := by exact_mod_cast h
  generalize (s.buflen.toNat : Int) = len at hlen heq
  have hnow := Int.emod_nonneg ((o.toNat : Int) + s.cursor.toNat - (0 : Nat)) (b := len) (by omega)
  have hback := Int.emod_nonneg ((o.toNat : Int) + s.cursor.toNat - (1 : Nat)) (b := len) (by omega)
  have hmod : ((o.toNat : Int) + s.cursor.toNat - (1 : Nat)) % len = ((o.toNat : Int) + s.cursor.toNat - (0 : Nat)) % len := by
    omega
  have hdvd : len ∣ 1 := by
    have := Int.emod_eq_emod_iff_emod_sub_eq_zero.mp hmod.symm
    have hone : (o.toNat : Int) + s.cursor.toNat - (0 : Nat) - (o.toNat + s.cursor.toNat - (1 : Nat)) = 1 := by omega
    rw [hone] at this
    exact Int.dvd_of_emod_eq_zero this
  have := Int.le_of_dvd (by decide) hdvd
  omega

/-! ### Stages -/

/-- A reflection tap stores the filter of its wall and its previous sample (R183 to R185). -/
theorem delayWord_reflect_same (s : State) (t : NanTag) (inp wall tap : Word) :
    (s.reflect t inp wall tap).delayWord (s.tapA tap) =
      reflectionFilter t s.derived.g_vWALL s.derived.g_vIIR inp (s.delayWord (s.tapA wall))
        (s.delayWord (s.tapA1 tap)) :=
  delayWord_setDelayWord_same _ _ _

theorem delayWord_reflect_other (s : State) (t : NanTag) (inp wall tap : Word) {i : Nat} (h : i ≠ s.tapA tap) :
    (s.reflect t inp wall tap).delayWord i = s.delayWord i :=
  delayWord_setDelayWord_other _ h _

theorem delayWord_allPass_other (s : State) (t : NanTag) (x mo d g : Word) {i : Nat} (h : i ≠ s.tapA mo) :
    (s.allPass t x mo d g).1.delayWord i = s.delayWord i :=
  delayWord_setDelayWord_other _ h _

/-- Settles O27: the stage reads its delayed word, stores at its write offset, and gives the output. -/
theorem allPassStage : Obligations.AllPassStage := by
  intro s n x mo d g
  exact ⟨_, _, _, _, _, _, _, rfl, rfl, rfl, rfl, delayWord_setDelayWord_same _ _ _,
    fun i hi => delayWord_allPass_other s n x mo d g hi⟩

/-- Settles O31: the left filter's store is what the right one reads as its wall tap and then overwrites; the word behind
it, which both read as their previous sample, is another one (`tapA1_ne_tapA`). -/
theorem sharedCrossTapsFollowTheOrder : Obligations.SharedCrossTapsFollowTheOrder := by
  intro s e lin rin o hlen hmL hmR hdL hdR
  obtain ⟨u, hu⟩ : ∃ u, u = (s.reflect ⟨e, 2⟩ lin s.derived.S_dLSAME s.derived.S_mLSAME).reflect ⟨e, 7⟩ rin
    s.derived.S_dRSAME s.derived.S_mRSAME := ⟨_, rfl⟩
  refine ⟨u, ⟨e, 12⟩, ⟨e, 17⟩, hu, ?_⟩
  have hderived : u.derived = s.derived := by rw [hu]; rfl
  have hnow : s.tapA o = u.tapA o := by rw [hu]; rfl
  have hback : s.tapA1 o = u.tapA1 o := by rw [hu]; rfl
  have hbehind : u.tapA1 o ≠ u.tapA o := tapA1_ne_tapA (by rw [hu]; exact hlen) o
  rw [reflections_eq rfl hu rfl, hmL, hmR, hdL, hdR, hnow, hback, ← hderived]
  generalize hleft : u.reflect ⟨e, 12⟩ lin o o = v
  have hv : v.delayWord (u.tapA o) = reflectionFilter ⟨e, 12⟩ u.derived.g_vWALL u.derived.g_vIIR lin
      (u.delayWord (u.tapA o)) (u.delayWord (u.tapA1 o)) := by
    rw [← hleft, delayWord_reflect_same]
  have hv' : v.delayWord (u.tapA1 o) = u.delayWord (u.tapA1 o) := by
    rw [← hleft, delayWord_reflect_other _ _ _ _ _ hbehind]
  have hw := delayWord_reflect_same v ⟨e, 17⟩ rin o o
  rw [show v.tapA o = u.tapA o by rw [← hleft]; rfl, show v.tapA1 o = u.tapA1 o by rw [← hleft]; rfl,
    show v.derived = u.derived by rw [← hleft]; rfl, hv, hv'] at hw
  exact hw

/-! ### One sample -/

/-- One sample, its stages named: the reflections leave `u`, the all-pass stages `v` and the wet pair `lo`, `ro` (R188). -/
theorem kernel_stages {s u v : State} {e : Nat} {lin rin lo ro xL xR : Word} (he : e = s.freeCount)
    (hlin : lin = f32Mul ⟨e, 0⟩ xL s.derived.g_vLIN) (hrin : rin = f32Mul ⟨e, 1⟩ xR s.derived.g_vRIN)
    (hu : u = s.reflections e lin rin) (hv : u.allPasses e (u.combLeft e) (u.combRight e) = (v, lo, ro)) :
    s.kernel xL xR = (v.advanceCursor.nextEpoch, s.mix ⟨e, 52⟩ lo xL, s.mix ⟨e, 56⟩ ro xR) := by
  have hout : DelayOnly s v := by
    have hstages := (delayOnly_reflections s e lin rin).trans (delayOnly_allPasses _ e (u.combLeft e) (u.combRight e))
    rwa [← hu, hv] at hstages
  have hwet : v.advanceCursor.nextEpoch.wet = s.wet := by rw [hout.eq]; rfl
  have hdry : v.advanceCursor.nextEpoch.dry = s.dry := by rw [hout.eq]; rfl
  have hmaster : v.advanceCursor.nextEpoch.master = s.master := by rw [hout.eq]; rfl
  simp only [State.kernel, ← he, ← hlin, ← hrin, ← hu, hv, mix_congr hwet hdry hmaster]

/-- Settles O26: the operations are those of the definitions, and the sample's stages are named by `reflections_eq`,
`allPasses_eq` and `kernel_stages`. -/
theorem kernelExpressions : Obligations.KernelExpressions := by
  refine ⟨fun _ _ _ _ _ _ => ⟨_, _, _, _, _, rfl⟩, fun _ _ _ _ _ _ => ⟨_, _, _, _, _, _, _, rfl⟩,
    fun _ _ _ _ => ⟨_, _, _, _, rfl⟩, fun _ t _ _ _ => ⟨t, rfl⟩, fun s xL xR => ?_⟩
  obtain ⟨e, he⟩ : ∃ e, e = s.freeCount := ⟨_, rfl⟩
  obtain ⟨lin, hlin⟩ : ∃ v, v = f32Mul ⟨e, 0⟩ xL s.derived.g_vLIN := ⟨_, rfl⟩
  obtain ⟨rin, hrin⟩ : ∃ v, v = f32Mul ⟨e, 1⟩ xR s.derived.g_vRIN := ⟨_, rfl⟩
  obtain ⟨s1, h1⟩ : ∃ u, u = s.reflect ⟨e, 2⟩ lin s.derived.S_dLSAME s.derived.S_mLSAME := ⟨_, rfl⟩
  obtain ⟨s2, h2⟩ : ∃ u, u = s1.reflect ⟨e, 7⟩ rin s.derived.S_dRSAME s.derived.S_mRSAME := ⟨_, rfl⟩
  obtain ⟨s3, h3⟩ : ∃ u, u = s2.reflect ⟨e, 12⟩ lin s.derived.S_dRDIFF s.derived.S_mLDIFF := ⟨_, rfl⟩
  obtain ⟨s4, h4⟩ : ∃ u, u = s3.reflect ⟨e, 17⟩ rin s.derived.S_dLDIFF s.derived.S_mRDIFF := ⟨_, rfl⟩
  have hreflections : s4 = s.reflections e lin rin := by rw [h4, reflections_eq h1 h2 h3]
  have hderived : s4.derived = s.derived := by rw [hreflections, (delayOnly_reflections s e lin rin).eq]
  obtain ⟨lc, hlc⟩ : ∃ v, v = s4.combLeft e := ⟨_, rfl⟩
  obtain ⟨rc, hrc⟩ : ∃ v, v = s4.combRight e := ⟨_, rfl⟩
  obtain ⟨l1, hl1⟩ : ∃ r, r = s4.allPass ⟨e, 36⟩ lc s4.derived.S_mLAPF1 s4.derived.S_dAPF1 s4.derived.g_vAPF1 := ⟨_, rfl⟩
  obtain ⟨r1, hr1⟩ : ∃ r, r = l1.1.allPass ⟨e, 40⟩ rc s4.derived.S_mRAPF1 s4.derived.S_dAPF1 s4.derived.g_vAPF1 :=
    ⟨_, rfl⟩
  obtain ⟨l2, hl2⟩ : ∃ r, r = r1.1.allPass ⟨e, 44⟩ l1.2 s4.derived.S_mLAPF2 s4.derived.S_dAPF2 s4.derived.g_vAPF2 :=
    ⟨_, rfl⟩
  obtain ⟨r2, hr2⟩ : ∃ r, r = l2.1.allPass ⟨e, 48⟩ r1.2 s4.derived.S_mRAPF2 s4.derived.S_dAPF2 s4.derived.g_vAPF2 :=
    ⟨_, rfl⟩
  have hstages : s4.allPasses e lc rc = (r2.1, l2.2, r2.2) := allPasses_eq hl1 hr1 hl2 hr2
  have hout : DelayOnly s r2.1 := by
    have := (delayOnly_reflections s e lin rin).trans (delayOnly_allPasses _ e lc rc)
    rwa [← hreflections, hstages] at this
  have hkernel := kernel_stages he hlin hrin hreflections (hlc ▸ hrc ▸ hstages)
  rw [hderived] at hl1 hr1 hl2 hr2
  rw [State.combLeft, hderived] at hlc
  rw [State.combRight, hderived] at hrc
  rw [nextEpoch_advanceCursor hout.buflen (by rw [hout.eq]) (by rw [hout.eq])] at hkernel
  exact ⟨_, _, _, _, _, _, _, _, _, _, _, _, _, _, lin, rin, lc, rc, s1, s2, s3, s4, l1, r1, l2, r2, hlin, hrin, h1, h2, h3,
    h4, hlc, hrc, hl1, hr1, hl2, hr2, hkernel⟩

/-- The four reflections write their four taps alone. -/
theorem delayWord_reflections_other (s : State) (e : Nat) (lin rin : Word) {i : Nat}
    (hsL : i ≠ s.tapA s.derived.S_mLSAME) (hsR : i ≠ s.tapA s.derived.S_mRSAME) (hdL : i ≠ s.tapA s.derived.S_mLDIFF)
    (hdR : i ≠ s.tapA s.derived.S_mRDIFF) : (s.reflections e lin rin).delayWord i = s.delayWord i := by
  rw [reflections_eq rfl rfl rfl]
  refine (delayWord_reflect_other _ _ _ _ _ ?_).trans <| (delayWord_reflect_other _ _ _ _ _ ?_).trans <|
    (delayWord_reflect_other _ _ _ _ _ ?_).trans <| delayWord_reflect_other _ _ _ _ _ hsL
  exacts [hdR, hdL, hsR]

/-- The four all-pass stages write their four taps alone. -/
theorem delayWord_allPasses_other (s : State) (e : Nat) (lo ro : Word) {i : Nat}
    (h1L : i ≠ s.tapA s.derived.S_mLAPF1) (h1R : i ≠ s.tapA s.derived.S_mRAPF1) (h2L : i ≠ s.tapA s.derived.S_mLAPF2)
    (h2R : i ≠ s.tapA s.derived.S_mRAPF2) : (s.allPasses e lo ro).1.delayWord i = s.delayWord i := by
  rw [allPasses_eq rfl rfl rfl rfl]
  refine (delayWord_allPass_other _ _ _ _ _ _ ?_).trans <| (delayWord_allPass_other _ _ _ _ _ _ ?_).trans <|
    (delayWord_allPass_other _ _ _ _ _ _ ?_).trans <| delayWord_allPass_other _ _ _ _ _ _ h1L
  exacts [h2R, h2L, h1R]

/-- One sample changes B, CURSOR and the free-value counter alone (R180). -/
theorem kernel_eq (s : State) (xL xR : Word) : (s.kernel xL xR).1 =
    { s with delay := (s.kernel xL xR).1.delay, cursor := BitVec.ofNat 32 (tapIndex s.buflen.toNat s.cursor.toNat 1 0),
             freeCount := s.freeCount + 1 } := by
  obtain ⟨t, ht, hk⟩ := kernel_state s xL xR
  rw [hk, nextEpoch_advanceCursor ht.buflen (by rw [ht.eq]) (by rw [ht.eq]), ht.eq]

/-- One sample writes its eight taps alone (R180, R188). -/
theorem delayWord_kernel_other (s : State) (xL xR : Word) {i : Nat} (h : i ∉ s.writtenTaps) :
    (s.kernel xL xR).1.delayWord i = s.delayWord i := by
  simp only [State.writtenTaps, List.mem_cons, List.not_mem_nil, or_false, not_or] at h
  obtain ⟨hsL, hsR, hdL, hdR, h1L, h1R, h2L, h2R⟩ := h
  obtain ⟨u, hu⟩ : ∃ u, u = s.reflections s.freeCount (f32Mul ⟨s.freeCount, 0⟩ xL s.derived.g_vLIN)
    (f32Mul ⟨s.freeCount, 1⟩ xR s.derived.g_vRIN) := ⟨_, rfl⟩
  obtain ⟨w, hw⟩ : ∃ w, u.allPasses s.freeCount (u.combLeft s.freeCount) (u.combRight s.freeCount) = w := ⟨_, rfl⟩
  have hderived : u.derived = s.derived := by rw [hu, (delayOnly_reflections _ _ _ _).eq]
  have htap (o : Word) : u.tapA o = s.tapA o := by rw [hu, (delayOnly_reflections _ _ _ _).eq]; rfl
  calc (s.kernel xL xR).1.delayWord i = w.1.delayWord i := by rw [kernel_stages rfl rfl rfl hu hw]; rfl
    _ = u.delayWord i := by
      rw [← hw]
      exact delayWord_allPasses_other _ _ _ _ (by rwa [hderived, htap]) (by rwa [hderived, htap])
        (by rwa [hderived, htap]) (by rwa [hderived, htap])
    _ = s.delayWord i := by rw [hu, delayWord_reflections_other _ _ _ _ hsL hsR hdL hdR]

/-- Settles O28: `kernel_eq` for the registers, `delayWord_kernel_other` for B. -/
theorem kernelWritesItsTapsAlone : Obligations.KernelWritesItsTapsAlone := by
  intro s xL xR
  refine ⟨(s.kernel xL xR).1, (s.kernel xL xR).2, rfl, ?_, fun i hi => delayWord_kernel_other s xL xR hi⟩
  rw [kernel_eq]

/-! ### A run of samples -/

/-- A run changes B, CURSOR and the free-value counter alone. -/
theorem runKernel_eq (s : State) (xs : List (Word × Word)) : (s.runKernel xs).1 =
    { s with delay := (s.runKernel xs).1.delay, cursor := (s.runKernel xs).1.cursor,
             freeCount := (s.runKernel xs).1.freeCount } := by
  induction xs generalizing s with
  | nil => rfl
  | cons x xs ih => rw [State.runKernel, ih, kernel_eq]

@[simp] theorem runKernel_buflen (s : State) (xs : List (Word × Word)) : (s.runKernel xs).1.buflen = s.buflen := by
  rw [runKernel_eq]

/-- A run writes no byte of B past the buffer. -/
theorem runKernel_delay_above (s : State) (xs : List (Word × Word)) (h0 : 0 < s.buflen.toNat) {a : Nat}
    (ha : 4 * s.buflen.toNat ≤ a) : (s.runKernel xs).1.delay.byte a = s.delay.byte a := by
  induction xs generalizing s with
  | nil => rfl
  | cons x xs ih =>
    obtain ⟨t, ht, hk⟩ := kernel_state s x.1 x.2
    have hlen : (s.kernel x.1 x.2).1.buflen = s.buflen := by rw [kernel_eq]
    calc ((s.kernel x.1 x.2).1.runKernel xs).1.delay.byte a
        = (s.kernel x.1 x.2).1.delay.byte a := ih _ (by rwa [hlen]) (by rwa [hlen])
      _ = s.delay.byte a := by rw [hk]; exact ht.above h0 a ha

theorem runKernel_delay_wf (s : State) (xs : List (Word × Word)) (h : s.delay.wf = true) :
    (s.runKernel xs).1.delay.wf = true := by
  induction xs generalizing s with
  | nil => exact h
  | cons x xs ih =>
    obtain ⟨t, ht, hk⟩ := kernel_state s x.1 x.2
    refine ih _ ?_
    rw [hk]
    exact ht.wf h

/-- One sample advances the cursor by one, modulo BUFLEN (R190). -/
theorem kernel_cursor (s : State) (xL xR : Word) (h0 : 0 < s.buflen.toNat) :
    (s.kernel xL xR).1.cursor.toNat = (s.cursor.toNat + 1) % s.buflen.toNat := by
  have hlt := Nat.mod_lt (s.cursor.toNat + 1) h0
  have hlen := s.buflen.isLt
  rw [kernel_eq, tapIndex_zero, BitVec.toNat_ofNat, Nat.add_comm 1, Nat.mod_eq_of_lt (lt_trans hlt hlen)]

/-- A run advances the cursor by the number of its samples (R190). -/
theorem runKernel_cursor (s : State) (xs : List (Word × Word)) (h : s.cursor.toNat < s.buflen.toNat) :
    (s.runKernel xs).1.cursor.toNat = (s.cursor.toNat + xs.length) % s.buflen.toNat := by
  induction xs generalizing s with
  | nil => exact (Nat.mod_eq_of_lt h).symm
  | cons x xs ih =>
    have h0 : 0 < s.buflen.toNat := by omega
    have hlen : (s.kernel x.1 x.2).1.buflen = s.buflen := by rw [kernel_eq]
    have hcur := kernel_cursor s x.1 x.2 h0
    have hlt := Nat.mod_lt (s.cursor.toNat + 1) h0
    have hrest := ih (s.kernel x.1 x.2).1 (by rw [hlen, hcur]; exact hlt)
    rw [hlen, hcur, Nat.mod_add_mod] at hrest
    rw [List.length_cons, show s.cursor.toNat + (xs.length + 1) = s.cursor.toNat + 1 + xs.length by omega]
    exact hrest

/-- Settles O29, by the induction of `runKernel_cursor`. -/
theorem cursorCountsSamples : Obligations.CursorCountsSamples := runKernel_cursor

end Sys2Proof.Machine
end

section
/-! PROOFS. binary32 values of words (00_scope.md R10, R11): which words are which numbers, which numbers a format holds,
and O34, that the four operations round once to the nearest. -/

namespace Sys2Proof.Machine

namespace FloatFormat

/-! ### The numbers of a format -/

/-- Every magnitude is a significand below twice the hidden bit, in a place that the exponent field allows. -/
theorem magOf_eq_mul_pow (f : FloatFormat) {p : Nat} (hp : p < f.infPattern) :
    ∃ n sh, f.magOf p = n * 2 ^ sh ∧ n < 2 * 2 ^ f.fracBits ∧
      (sh = 0 ∨ (2 ^ f.fracBits ≤ n ∧ sh + 2 ≤ 2 ^ f.expBits - 1)) := by
  obtain ⟨sh, n, rfl, hn, hsh⟩ := f.pattern_eq p
  refine ⟨n, sh, f.magOf_place hn.le hsh, hn, hsh.imp id fun hhidden => ⟨hhidden, ?_⟩⟩
  unfold infPattern at hp
  have hroom : (sh + 1) * 2 ^ f.fracBits < (2 ^ f.expBits - 1) * 2 ^ f.fracBits := by rw [Nat.add_mul]; omega
  have := Nat.lt_of_mul_lt_mul_right hroom
  omega

/-- Every significand below twice the hidden bit, in a place that the exponent field allows, is a number. -/
theorem exists_magOf_eq (f : FloatFormat) {n sh : Nat} (hn : n < 2 * 2 ^ f.fracBits) (hsh : sh + 2 ≤ 2 ^ f.expBits - 1) :
    ∃ p, p < f.infPattern ∧ f.magOf p = n * 2 ^ sh := by
  have hplace : f.place (n * 2 ^ sh) 1 ≤ sh := by
    rw [place, Nat.div_one]
    rcases Nat.eq_zero_or_pos n with rfl | hpos
    · simp
    · have hne : n * 2 ^ sh ≠ 0 := (Nat.mul_pos hpos (Nat.two_pow_pos sh)).ne'
      have hlt : n * 2 ^ sh < 2 ^ (f.fracBits + 1 + sh) := by
        rw [Nat.pow_add, Nat.pow_succ, Nat.mul_comm _ 2]
        exact Nat.mul_lt_mul_of_pos_right hn (Nat.two_pow_pos sh)
      have := (Nat.log2_lt hne).mpr hlt
      omega
  have hsplit : n * 2 ^ sh = n * 2 ^ (sh - f.place (n * 2 ^ sh) 1) * (1 * 2 ^ f.place (n * 2 ^ sh) 1) := by
    rw [Nat.one_mul, Nat.mul_assoc, ← Nat.pow_add, Nat.sub_add_cancel hplace]
  have hexact : f.significand (n * 2 ^ sh) 1 * 2 ^ f.place (n * 2 ^ sh) 1 = n * 2 ^ sh := by
    have hpos : 0 < 1 * 2 ^ f.place (n * 2 ^ sh) 1 := by simp
    have : f.significand (n * 2 ^ sh) 1 = n * 2 ^ (sh - f.place (n * 2 ^ sh) 1) := by
      conv_lhs => rw [significand]
      conv_lhs => arg 1; rw [hsplit]
      exact nearestEven_mul _ hpos
    rw [this, Nat.one_mul] at *
    exact hsplit.symm
  obtain ⟨hle, hhidden⟩ := f.significand_bounds (num := n * 2 ^ sh) Nat.one_pos
  refine ⟨_, ?_, (f.magOf_place hle hhidden).trans hexact⟩
  have hlt := f.lt_place (num := n * 2 ^ sh) Nat.one_pos
  rw [Nat.one_mul] at hlt
  have hsig := Nat.lt_of_mul_lt_mul_right (hexact.trans_lt hlt)
  have hroom : (sh + 2) * 2 ^ f.fracBits ≤ (2 ^ f.expBits - 1) * 2 ^ f.fracBits := Nat.mul_le_mul_right _ hsh
  have hpl : f.place (n * 2 ^ sh) 1 * 2 ^ f.fracBits ≤ sh * 2 ^ f.fracBits := Nat.mul_le_mul_right _ hplace
  rw [Nat.add_mul] at hroom
  unfold infPattern
  omega

theorem infPattern_lt_signWeight (f : FloatFormat) : f.infPattern < f.signWeight := by
  simp only [infPattern, signWeight, Nat.pow_add]
  exact Nat.mul_lt_mul_of_pos_right (by have := Nat.two_pow_pos f.expBits; omega) (Nat.two_pow_pos _)

/-- Rounding a number of the format gives the number. -/
theorem unpack_roundRatio_exact (f : FloatFormat) (neg : Bool) {n sh num den : Nat} (hd : 0 < den)
    (hn : n < 2 * 2 ^ f.fracBits) (hsh : sh + 2 ≤ 2 ^ f.expBits - 1) (h : num = n * 2 ^ sh * den) :
    f.unpack (f.roundRatio neg num den) = .fin neg (n * 2 ^ sh) := by
  obtain ⟨p, hp, hmag⟩ := f.exists_magOf_eq hn hsh
  rw [f.roundRatio_exact neg hd hp (by rw [h, hmag]), unpack_withSign f neg hp.le, if_neg hp.ne, hmag]

end FloatFormat

/-! ### binary32 words -/

@[simp] theorem binary32_signWeight : binary32.signWeight = 2 ^ 31 := rfl
@[simp] theorem binary32_infPattern : binary32.infPattern = 0x7F800000 := rfl
@[simp] theorem binary32_unitLog : binary32.unitLog = 149 := rfl
@[simp] theorem binary32_fracBits : binary32.fracBits = 23 := rfl
@[simp] theorem binary32_expBits : binary32.expBits = 8 := rfl

/-- A word is its sign bit over its other 31 bits. -/
theorem toNat_eq_withSign (x : Word) : x.toNat = binary32.withSign (x.getLsbD 31) (x.toNat % 2 ^ 31) := by
  have hx := x.isLt
  have hbit : x.getLsbD 31 = decide (x.toNat / 2 ^ 31 % 2 = 1) := Nat.testBit_eq_decide_div_mod_eq
  rw [hbit, FloatFormat.withSign, binary32_signWeight]
  split <;> simp_all <;> omega

/-- A word below the pattern of infinity, its sign aside, is a finite number; at it an infinity, above it a NaN. -/
theorem f32Val_eq (x : Word) : f32Val x =
    if x.toNat % 2 ^ 31 = 0x7F800000 then .inf (x.getLsbD 31)
    else if 0x7F800000 < x.toNat % 2 ^ 31 then .nan
    else .fin (x.getLsbD 31) (binary32.magOf (x.toNat % 2 ^ 31)) := by
  have hbit : x.getLsbD 31 = decide (x.toNat / 2 ^ 31 % 2 = 1) := Nat.testBit_eq_decide_div_mod_eq
  rw [f32Val, FloatFormat.unpack, binary32_signWeight, binary32_infPattern, hbit]
  rfl

theorem f32Val_eq_fin_iff {x : Word} {a : Bool} {m : Nat} : f32Val x = .fin a m ↔
    x.toNat % 2 ^ 31 < 0x7F800000 ∧ x.getLsbD 31 = a ∧ binary32.magOf (x.toNat % 2 ^ 31) = m := by
  rw [f32Val_eq]
  split_ifs with hinf hnan
  · exact ⟨nofun, fun ⟨hlt, _⟩ => by omega⟩
  · exact ⟨nofun, fun ⟨hlt, _⟩ => by omega⟩
  · rw [FloatVal.fin.injEq]
    exact ⟨fun ⟨ha, hm⟩ => ⟨by omega, ha, hm⟩, fun ⟨_, ha, hm⟩ => ⟨ha, hm⟩⟩

/-- A finite word is the rounded ratio of its own magnitude. -/
theorem roundRatio_self {x : Word} {a : Bool} {m den : Nat} (h : f32Val x = .fin a m) (hd : 0 < den) :
    BitVec.ofNat 32 (binary32.roundRatio a (m * den) den) = x := by
  obtain ⟨hp, ha, hm⟩ := f32Val_eq_fin_iff.mp h
  rw [binary32.roundRatio_exact a hd hp (by rw [hm]), ← ha, ← toNat_eq_withSign, BitVec.ofNat_toNat,
    BitVec.setWidth_eq]

/-- A finite word is a significand of 24 bits in a place up to 253. -/
theorem magnitude_of_finite {x : Word} {a : Bool} {m : Nat} (h : f32Val x = .fin a m) :
    ∃ n sh, m = n * 2 ^ sh ∧ n < 2 ^ 24 ∧ sh ≤ 253 ∧ (sh = 0 ∨ 2 ^ 23 ≤ n) := by
  obtain ⟨hp, -, hm⟩ := f32Val_eq_fin_iff.mp h
  obtain ⟨n, sh, heq, hn, hsh⟩ := binary32.magOf_eq_mul_pow hp
  simp only [binary32_fracBits, binary32_expBits] at hn hsh
  exact ⟨n, sh, hm.symm.trans heq, by omega, by omega, by omega⟩

/-- The word of a rounded ratio that is a number of binary32. -/
theorem f32Val_roundRatio_exact (neg : Bool) {n sh num den : Nat} (hd : 0 < den) (hn : n < 2 ^ 24) (hsh : sh ≤ 253)
    (h : num = n * 2 ^ sh * den) : f32Val (BitVec.ofNat 32 (binary32.roundRatio neg num den)) = .fin neg (n * 2 ^ sh) := by
  rw [f32Val, BitVec.toNat_ofNat, Nat.mod_eq_of_lt (show _ < 2 ^ 32 from binary32.roundRatio_lt neg num den)]
  exact binary32.unpack_roundRatio_exact neg hd (by simpa using hn) (by simp only [binary32_expBits]; omega) h

/-! ### Rounding to nearest -/

theorem f32Threshold_pos : 0 < f32Threshold := Nat.mul_pos (by decide) (Nat.two_pow_pos _)

/-- The threshold has its leading bit at place 276. -/
theorem lt_f32Threshold_of_log2_lt {q : Nat} (h : Nat.log2 q < 24 + 252) : q < f32Threshold :=
  calc q < 2 ^ (Nat.log2 q + 1) := Nat.lt_log2_self
    _ ≤ 2 ^ (24 + 252) := Nat.pow_le_pow_right (by decide) h
    _ = 2 ^ 24 * 2 ^ 252 := Nat.pow_add ..
    _ ≤ f32Threshold := Nat.mul_le_mul_right _ (by decide)

theorem log2_lt_of_lt_f32Threshold {q : Nat} (h : q < f32Threshold) : Nat.log2 q < 25 + 252 := by
  rcases Nat.eq_zero_or_pos q with rfl | hq
  · simp
  refine (Nat.log2_lt hq.ne').mpr (h.trans ?_)
  rw [Nat.pow_add]
  exact Nat.mul_lt_mul_of_pos_right (by decide) (Nat.two_pow_pos _)

/-- A rounded ratio is finite exactly below the threshold of R11. -/
theorem rounds_finite_iff {num den : Nat} (hd : 0 < den) :
    binary32.place num den * 2 ^ 23 + binary32.significand num den < 0x7F800000 ↔ num < f32Threshold * den := by
  obtain ⟨hle, hhidden⟩ := binary32.significand_bounds (num := num) hd
  obtain ⟨hup, hdown, htie⟩ := FloatFormat.nearestEven_spec (num := num) (den := den * 2 ^ binary32.place num den)
    (Nat.mul_pos hd (Nat.two_pow_pos _))
  change 2 * (binary32.significand num den * _) ≤ _ at hup
  change _ ≤ 2 * (binary32.significand num den * _) + _ at hdown
  change 2 * (binary32.significand num den * _) = _ ∨ _ = 2 * (binary32.significand num den * _) + _ →
    binary32.significand num den % 2 = 0 at htie
  have hplace : binary32.place num den = Nat.log2 (num / den) - 23 := rfl
  have hthreshold : num < f32Threshold * den ↔ num / den < f32Threshold := (Nat.div_lt_iff_lt_mul hd).symm
  simp only [binary32_fracBits] at hle hhidden
  generalize binary32.significand num den = S at *
  have hT : f32Threshold * den * 2 = (2 ^ 25 - 1) * (den * 2 ^ 253) := by unfold f32Threshold; ring
  rcases lt_trichotomy (binary32.place num den) 253 with hbelow | hmid | habove
  · exact iff_of_true (by omega) (hthreshold.mpr (lt_f32Threshold_of_log2_lt (by omega)))
  · rw [hmid] at hup hdown htie hhidden ⊢
    obtain ⟨D, hD⟩ : ∃ D, D = den * 2 ^ 253 := ⟨_, rfl⟩
    obtain ⟨bound, hbound⟩ : ∃ bound, bound = f32Threshold * den := ⟨_, rfl⟩
    have hD0 : 0 < D := hD ▸ Nat.mul_pos hd (Nat.two_pow_pos _)
    rw [← hD] at hup hdown htie hT
    rw [← hbound] at hT ⊢
    constructor
    · intro hfin
      by_contra hge
      have hle : S * D ≤ (2 ^ 24 - 1) * D := Nat.mul_le_mul_right _ (by omega)
      have heven := htie (.inr (by omega))
      have hle' : S * D ≤ (2 ^ 24 - 2) * D := Nat.mul_le_mul_right _ (by omega)
      omega
    · intro hlt
      by_contra hge
      have hge' : 2 ^ 24 * D ≤ S * D := Nat.mul_le_mul_right _ (by omega)
      omega
  · refine iff_of_false (by omega) fun hlt => ?_
    have hlog := log2_lt_of_lt_f32Threshold (hthreshold.mp hlt)
    omega

/-- The word of a rounded ratio is even exactly when its significand is. -/
theorem roundRatio_even (neg : Bool) {num den : Nat}
    (hfin : binary32.place num den * 2 ^ 23 + binary32.significand num den < 0x7F800000)
    (heven : binary32.significand num den % 2 = 0) :
    (BitVec.ofNat 32 (binary32.roundRatio neg num den)).getLsbD 0 = false := by
  rw [BitVec.getLsbD_ofNat, binary32.roundRatio_eq, binary32_fracBits, binary32_infPattern, Nat.min_eq_left hfin.le,
    FloatFormat.withSign, binary32_signWeight]
  simp only [Nat.testBit_zero, Bool.and_eq_false_imp, decide_eq_false_iff_not]
  intro _
  split <;> omega

theorem signedMag_mul_natCast (b : Bool) (i den : Nat) :
    FloatFormat.signedMag b i * den = FloatFormat.signedMag b (i * den) := by
  cases b <;> simp [FloatFormat.signedMag]

@[simp] theorem natAbs_signedMag (b : Bool) (i : Nat) : (FloatFormat.signedMag b i).natAbs = i := by
  cases b <;> simp [FloatFormat.signedMag]

@[simp] theorem signedMag_zero (b : Bool) : FloatFormat.signedMag b 0 = 0 := by
  cases b <;> rfl

theorem natAbs_signedMag_sub_same (b : Bool) (i j : Nat) :
    (FloatFormat.signedMag b i - FloatFormat.signedMag b j).natAbs = ((i : Int) - j).natAbs := by
  cases b with
  | false => rfl
  | true =>
    simp only [FloatFormat.signedMag, if_true]
    omega

theorem natAbs_signedMag_sub_opposite {b c : Bool} (h : b ≠ c) (i j : Nat) :
    (FloatFormat.signedMag b i - FloatFormat.signedMag c j).natAbs = i + j := by
  obtain rfl : c = !b := by cases b <;> cases c <;> simp_all
  cases b <;> simp only [FloatFormat.signedMag, Bool.not_true, Bool.not_false, if_true, Bool.false_eq_true, if_false] <;>
    omega

/-- With the sign of the ratio, the nearest magnitude is the nearest number; another number as near is the same one, or is
as near in magnitude. -/
theorem signedMag_nearest {c d : Bool} {num den k j : Nat} {tie : Prop} (hden : 0 < den) (hzero : num = 0 → k = 0)
    (hle : ((k * den : Nat) - (num : Int)).natAbs ≤ ((j * den : Nat) - (num : Int)).natAbs)
    (htie : ((k * den : Nat) - (num : Int)).natAbs = ((j * den : Nat) - (num : Int)).natAbs → j = k ∨ tie) :
    (FloatFormat.signedMag c k * den - FloatFormat.signedMag c num).natAbs ≤
        (FloatFormat.signedMag d j * den - FloatFormat.signedMag c num).natAbs ∧
      ((FloatFormat.signedMag c k * den - FloatFormat.signedMag c num).natAbs =
          (FloatFormat.signedMag d j * den - FloatFormat.signedMag c num).natAbs →
        FloatFormat.signedMag d j = FloatFormat.signedMag c k ∨ tie) := by
  have hj : j * den = 0 → j = 0 := by simp [hden.ne']
  have hk : k = 0 → k * den = 0 := by rintro rfl; simp
  rw [signedMag_mul_natCast, signedMag_mul_natCast, natAbs_signedMag_sub_same]
  rcases eq_or_ne d c with rfl | hsign
  · rw [natAbs_signedMag_sub_same]
    exact ⟨hle, fun heq => (htie heq).imp (congrArg _) id⟩
  · rw [natAbs_signedMag_sub_opposite hsign]
    refine ⟨by omega, fun heq => ?_⟩
    have hj0 : j = 0 := hj (by omega)
    rcases htie (by subst hj0; simp at heq ⊢; omega) with hjk | ht
    · left; rw [← hjk, hj0, signedMag_zero, signedMag_zero]
    · exact .inr ht

theorem signedMag_neg_iff {b : Bool} {n : Nat} (h : 0 < n) : FloatFormat.signedMag b n < 0 ↔ b = true := by
  cases b <;> simp [FloatFormat.signedMag, h]

theorem f32Nearest_of_fin {w : Word} {c : Bool} {k den : Nat} {num : Int} (hval : f32Val w = .fin c k)
    (hbelow : num.natAbs < f32Threshold * den)
    (hnearest : ∀ (v : Word) (d : Bool) (j : Nat), f32Val v = .fin d j →
      (FloatFormat.signedMag c k * den - num).natAbs ≤ (FloatFormat.signedMag d j * den - num).natAbs ∧
        ((FloatFormat.signedMag c k * den - num).natAbs = (FloatFormat.signedMag d j * den - num).natAbs →
          FloatFormat.signedMag d j = FloatFormat.signedMag c k ∨ w.getLsbD 0 = false)) : f32Nearest num den w := by
  rw [f32Nearest, hval]
  exact ⟨hbelow, hnearest⟩

theorem f32Nearest_of_inf {w : Word} {c : Bool} {den : Nat} {num : Int} (hval : f32Val w = .inf c)
    (hbeyond : f32Threshold * den ≤ num.natAbs) (hsign : c = true ↔ num < 0) : f32Nearest num den w := by
  rw [f32Nearest, hval]
  exact ⟨hbeyond, hsign⟩

/-- Zero rounds to zero. -/
theorem significand_eq_zero {num den : Nat} (hden : 0 < den) (h : num = 0) :
    binary32.significand num den * 2 ^ binary32.place num den = 0 := by
  obtain ⟨hle, -⟩ := binary32.significand_nearest (num := num) hden 0
  have hmag : binary32.magOf 0 = 0 := by simp [FloatFormat.magOf]
  rw [hmag] at hle
  have : binary32.significand num den * 2 ^ binary32.place num den * den = 0 := by omega
  simpa [hden.ne'] using this

/-- A rounded ratio is the nearest number to it, or the infinity of its sign (R11). -/
theorem f32Nearest_roundRatio (c : Bool) (num : Nat) {den : Nat} (hden : 0 < den) :
    f32Nearest (FloatFormat.signedMag c num) den (BitVec.ofNat 32 (binary32.roundRatio c num den)) := by
  have hval := f32Val_roundRatio c (num := num) hden
  have hfinite := rounds_finite_iff (num := num) hden
  by_cases hfin : binary32.place num den * 2 ^ 23 + binary32.significand num den < 0x7F800000
  · rw [binary32_infPattern, if_pos hfin] at hval
    refine f32Nearest_of_fin hval (by rw [natAbs_signedMag]; exact hfinite.mp hfin) fun v d j hv => ?_
    obtain ⟨-, -, hj⟩ := f32Val_eq_fin_iff.mp hv
    obtain ⟨hle, htie⟩ := binary32.significand_nearest (num := num) hden (v.toNat % 2 ^ 31)
    rw [hj] at hle htie
    exact signedMag_nearest hden (significand_eq_zero hden) hle fun heq => (htie heq).imp id (roundRatio_even c hfin)
  · rw [binary32_infPattern, if_neg hfin] at hval
    have hbeyond : f32Threshold * den ≤ num := not_lt.mp fun hlt => hfin (hfinite.mpr hlt)
    have hpos : 0 < num := lt_of_lt_of_le (Nat.mul_pos f32Threshold_pos hden) hbeyond
    exact f32Nearest_of_inf hval (by rwa [natAbs_signedMag]) (signedMag_neg_iff hpos).symm

/-! ### The four operations -/

theorem f32Nearest_zero {den : Nat} (hden : 0 < den) (b : Bool) :
    f32Nearest 0 den (BitVec.ofNat 32 (binary32.withSign b 0)) := by
  have hexact : binary32.roundRatio b 0 den = binary32.withSign b 0 :=
    binary32.roundRatio_exact b hden (by decide) (by simp [FloatFormat.magOf])
  have hnearest := f32Nearest_roundRatio b 0 hden
  rwa [hexact, signedMag_zero] at hnearest

theorem signedMag_natAbs (z : Int) : FloatFormat.signedMag (decide (z < 0)) z.natAbs = z := by
  unfold FloatFormat.signedMag
  split <;> simp only [decide_eq_true_eq] at * <;> omega

theorem signedMag_mul (a b : Bool) (m n : Nat) :
    FloatFormat.signedMag a m * FloatFormat.signedMag b n = FloatFormat.signedMag (a ^^ b) (m * n) := by
  cases a <;> cases b <;> simp [FloatFormat.signedMag]

theorem signedMag_not (b : Bool) (n : Nat) : FloatFormat.signedMag (!b) n = -FloatFormat.signedMag b n := by
  cases b <;> simp [FloatFormat.signedMag]

/-- Addition of numbers rounds the exact sum once. -/
theorem f32Nearest_add (t : NanTag) (a b : Bool) (m n : Nat) :
    f32Nearest (FloatFormat.signedMag a m + FloatFormat.signedMag b n) 1
      (BitVec.ofNat 32 (binary32.add t (.fin a m) (.fin b n))) := by
  generalize hsum : FloatFormat.signedMag a m + FloatFormat.signedMag b n = z
  simp only [FloatFormat.add, hsum]
  split_ifs with hz
  · rw [hz]
    exact f32Nearest_zero Nat.one_pos _
  · have hnearest := f32Nearest_roundRatio (decide (z < 0)) z.natAbs Nat.one_pos
    rwa [signedMag_natAbs] at hnearest

/-- Settles O34: each operation rounds its exact ratio once (`f32Nearest_roundRatio`); a difference is the sum with the
negated operand. -/
theorem arithmeticRoundsOnceToNearestEven : Obligations.ArithmeticRoundsOnceToNearestEven := by
  intro t x y a b m n hx hy
  unfold f32Add f32Sub f32Mul f32Div
  rw [hx, hy]
  refine ⟨f32Nearest_add t a b m n, ?sub, ?mul, fun hn => ?div⟩
  case sub =>
    rw [Int.sub_eq_add_neg, ← signedMag_not]
    exact f32Nearest_add t a (!b) m n
  case mul =>
    rw [signedMag_mul]
    exact f32Nearest_roundRatio (a ^^ b) (m * n) (Nat.two_pow_pos 149)
  case div =>
    simp only [FloatFormat.div, if_neg hn]
    exact f32Nearest_roundRatio (a ^^ b) (m * 2 ^ 149) (Nat.pos_of_ne_zero hn)

end Sys2Proof.Machine
end

section
/-! PROOFS. SET_CRUSH and the crush stage (43_crush.md): O13, O35, O36 and O37. -/

namespace Sys2Proof.Machine

/-! ### SET_CRUSH -/

theorem exec_setCrush (imm : Nat) (s : State) :
    exec (.setCrush imm) s = .next { s with crush := Fin.ofNat 4 (min imm 3) }.complete := rfl

/-- Settles O13: the stored level is the minimum, which the field's type holds unchanged. -/
theorem setCrushSaturates : Obligations.SetCrushSaturates := by
  refine ⟨fun w hopc => decode_of_mod hopc (immField_toNat w), fun imm s => ⟨Fin.ofNat 4 (min imm 3), ?_, exec_setCrush imm s⟩⟩
  exact Nat.mod_eq_of_lt (by omega)

/-! ### Downsampling -/

@[simp] theorem decimate_length (x : List Word) : (decimate x).length = x.length / 2 := by
  induction x using decimate.induct with
  | case1 a b rest ih => rw [decimate, List.length_cons, List.length_cons, List.length_cons, ih]; omega
  | case2 a => simp [decimate]
  | case3 => rfl

/-- Decimation keeps the samples of even index (R212). -/
theorem decimate_getElem? {x : List Word} {i : Nat} (h : i < x.length / 2) : (decimate x)[i]? = x[2 * i]? := by
  induction x using decimate.induct generalizing i with
  | case1 a b rest ih =>
    cases i with
    | zero => rfl
    | succ i =>
      rw [List.length_cons, List.length_cons] at h
      rw [decimate, List.getElem?_cons_succ, ih (by omega), Nat.mul_add, Nat.mul_one, List.getElem?_cons_succ,
        List.getElem?_cons_succ]
  | case2 a => simp at h
  | case3 => simp at h

theorem decimate_getD {x : List Word} {i : Nat} (h : i < x.length / 2) : x[2 * i]? = some ((decimate x).getD i 0) := by
  have hlt : i < (decimate x).length := by rwa [decimate_length]
  rw [← decimate_getElem? h, List.getD_eq_getElem _ _ hlt, List.getElem?_eq_getElem hlt]

/-- A block of fewer than two samples has no decimated sample (R212). -/
theorem downsample_short (e : Nat) {x : List Word} (h : x.length < 2) : downsample e x = x := by
  have h0 : (decimate x).length = 0 := by rw [decimate_length]; omega
  simp only [downsample, h0, if_true]

theorem downsample_getElem? (e : Nat) {x : List Word} {n : Nat} (h : n < x.length) (h2 : 2 ≤ x.length) :
    (downsample e x)[n]? = some (interpolate e (decimate x) n) := by
  have h0 : (decimate x).length ≠ 0 := by rw [decimate_length]; omega
  simp only [downsample, if_neg h0, List.getElem?_map, List.getElem?_range h, Option.map_some]

/-! ### The crush of a block -/

theorem quantizeBlock_getElem? {e b n : Nat} {y : List Word} {v : Word} (h : y[n]? = some v) :
    (quantizeBlock e b y)[n]? = some (quantize ⟨e, 5 * n + 3⟩ v b) := by
  simp [quantizeBlock, List.getElem?_map, List.getElem?_zipIdx, h]

theorem crushBlock_zero (e : Nat) (x : List Word) : crushBlock e x 0 = x := rfl
theorem crushBlock_one (e : Nat) (x : List Word) : crushBlock e x 1 = downsample e x := rfl
theorem crushBlock_two (e : Nat) (x : List Word) : crushBlock e x 2 = quantizeBlock e 12 (downsample e x) := rfl
theorem crushBlock_three (e : Nat) (x : List Word) : crushBlock e x 3 = quantizeBlock e 10 (downsample e x) := rfl

/-- Settles O35: an output is interpolated between two decimated samples (`downsample_getElem?`), which are the
even-indexed ones (`decimate_getD`); the four levels are the four equations of `crushBlock`. -/
theorem downsampleInterpolatesEvenSamples : Obligations.DownsampleInterpolatesEvenSamples := by
  refine ⟨fun e x => ⟨downsample_length e x, downsample_short e, fun n hn h2 => ?_⟩, fun e x => ?_⟩
  · have hhalf : 0 < x.length / 2 := by omega
    have hout : (downsample e x)[n]? = some (interpolate e (decimate x) n) := downsample_getElem? e hn h2
    simp only [interpolate, decimate_length] at hout
    exact ⟨_, _, _, _, _, _, decimate_getD (Nat.mod_lt _ hhalf), decimate_getD (Nat.mod_lt _ hhalf), rfl, hout⟩
  · refine ⟨crushBlock_zero e x, crushBlock_one e x, by simp, by simp, fun n v hv => ⟨⟨⟨e, 5 * n + 3⟩, ?_⟩, ⟨e, 5 * n + 3⟩, ?_⟩⟩
    · rw [crushBlock_two, quantizeBlock_getElem? hv]
    · rw [crushBlock_three, quantizeBlock_getElem? hv]

/-! ### Rounding half away from zero -/

theorem f32Finite_iff {x : Word} : f32Finite x = true ↔ ∃ a m, f32Val x = .fin a m := by
  unfold f32Finite
  cases f32Val x <;> simp

/-- The integer nearest to a number, halves away from zero: from 2^23 on the number itself, below that an integer of
24 bits, so a number of the format either way. -/
theorem integer_part_representable {n sh : Nat} (hn : n < 2 ^ 24) (hsh : sh ≤ 253) :
    ∃ n' sh', (2 * (n * 2 ^ sh) + 2 ^ 149) / (2 * 2 ^ 149) * 2 ^ 149 = n' * 2 ^ sh' ∧ n' < 2 ^ 24 ∧ sh' ≤ 253 := by
  rcases Nat.lt_or_ge sh 149 with hlow | hhigh
  · refine ⟨_, 149, rfl, ?_, by decide⟩
    have hpow : 2 ^ sh ≤ 2 ^ 148 := Nat.pow_le_pow_right (by decide) (by omega)
    have hmul : n * 2 ^ sh ≤ (2 ^ 24 - 1) * 2 ^ 148 := Nat.mul_le_mul (by omega) hpow
    exact (Nat.div_lt_iff_lt_mul (by decide)).mpr (by omega)
  · refine ⟨n, sh, ?_, hn, hsh⟩
    obtain ⟨d, rfl⟩ := Nat.exists_eq_add_of_le hhigh
    have hsplit : n * 2 ^ (149 + d) = n * 2 ^ d * 2 ^ 149 := by rw [Nat.pow_add]; ring
    rw [hsplit]
    generalize n * 2 ^ d = q
    have hdiv : (2 * (q * 2 ^ 149) + 2 ^ 149) / (2 * 2 ^ 149) = q := by omega
    rw [hdiv]

/-- What `round_half_away` makes of a number (R12). -/
theorem f32Val_roundHalfAway {x : Word} {a : Bool} {m : Nat} (h : f32Val x = .fin a m) :
    f32Val (f32RoundHalfAway x) = .fin a ((2 * m + 2 ^ 149) / (2 * 2 ^ 149) * 2 ^ 149) := by
  obtain ⟨n, sh, rfl, hn, hsh, -⟩ := magnitude_of_finite h
  obtain ⟨n', sh', heq, hn', hsh'⟩ := integer_part_representable hn hsh
  unfold f32RoundHalfAway
  simp only [h, binary32_unitLog]
  rw [heq]
  exact f32Val_roundRatio_exact a Nat.one_pos hn' hsh' (Nat.mul_one _).symm

theorem roundHalfAway_of_not_finite {x : Word} (h : f32Finite x = false) : f32RoundHalfAway x = x := by
  unfold f32Finite at h
  unfold f32RoundHalfAway
  split <;> simp_all

/-- Settles O36: the value is the quotient of `f32Val_roundHalfAway`, which the two bounds name. -/
theorem roundHalfAwayFromZero : Obligations.RoundHalfAwayFromZero := by
  refine ⟨fun x neg m hx => ⟨(2 * m + 2 ^ 149) / (2 * 2 ^ 149), f32Val_roundHalfAway hx, ?_, ?_⟩,
    fun x => roundHalfAway_of_not_finite⟩ <;> omega

/-! ### Quantizing -/

/-- The scale of a depth is a power of two as a word (R213). -/
theorem quantizeScale {b : Nat} {c : Word} (h : (b = 12 ∧ c = 0x45000000) ∨ (b = 10 ∧ c = 0x44000000)) :
    f32OfNat (2 ^ (b - 1)) = c ∧ f32Val c = .fin false (2 ^ (b - 1) * 2 ^ 149) := by
  rcases h with ⟨rfl, rfl⟩ | ⟨rfl, rfl⟩ <;> decide +kernel

/-- An integer divided by a scale of at most 2^11 is a number of the format: an integer that is a number has no place
below those that the division frees. -/
theorem f32Val_div_scale {x c : Word} {a : Bool} {k e : Nat} (t : NanTag) (he : e ≤ 11)
    (hx : f32Val x = .fin a (k * 2 ^ 149)) (hc : f32Val c = .fin false (2 ^ e * 2 ^ 149)) :
    f32Val (f32Div t x c) = .fin a (k * (2 ^ 149 / 2 ^ e)) := by
  have hunit : (2 : Nat) ^ 149 = 2 ^ (149 - e) * 2 ^ e := by rw [← Nat.pow_add]; congr 1; omega
  have hquot : (2 : Nat) ^ 149 / 2 ^ e = 2 ^ (149 - e) := by rw [hunit, Nat.mul_div_cancel _ (Nat.two_pow_pos e)]
  have hne : 2 ^ e * 2 ^ 149 ≠ 0 := (Nat.mul_pos (Nat.two_pow_pos _) (Nat.two_pow_pos _)).ne'
  have hratio : k * 2 ^ 149 * 2 ^ 149 = k * 2 ^ (149 - e) * (2 ^ e * 2 ^ 149) := by
    conv_lhs => arg 1; rw [hunit]
    ring
  obtain ⟨n, sh, hnum, hn, hsh, -⟩ := magnitude_of_finite hx
  have hdiv : f32Div t x c = BitVec.ofNat 32 (binary32.roundRatio a (k * 2 ^ 149 * 2 ^ 149) (2 ^ e * 2 ^ 149)) := by
    unfold f32Div
    rw [hx, hc]
    simp only [FloatFormat.div, if_neg hne, Bool.xor_false, binary32_unitLog]
  rw [hdiv, hquot]
  rcases Nat.lt_or_ge sh e with hlow | hhigh
  · have hpow : 2 ^ sh ≤ 2 ^ 11 := Nat.pow_le_pow_right (by decide) (by omega)
    have hsmall : n * 2 ^ sh ≤ 2 ^ 24 * 2 ^ 11 := Nat.mul_le_mul hn.le hpow
    obtain rfl : k = 0 := by omega
    rw [f32Val_roundRatio_exact (n := 0) (sh := 0) a (Nat.pos_of_ne_zero hne) (by decide) (by decide) (by simp)]
    simp
  · have hk : k * 2 ^ (149 - e) = n * 2 ^ (sh - e) := by
      refine Nat.eq_of_mul_eq_mul_right (Nat.two_pow_pos e) ?_
      rw [Nat.mul_assoc, ← hunit, hnum, Nat.mul_assoc, ← Nat.pow_add, Nat.sub_add_cancel hhigh]
    rw [f32Val_roundRatio_exact (n := n) (sh := sh - e) a (Nat.pos_of_ne_zero hne) hn (by omega) (by rw [hratio, hk]), hk]

/-- Settles O37: the scale is a constant (`quantizeScale`), and a finite scaled sample rounds to an integer, which the
division scales exactly (`f32Val_div_scale`). -/
theorem quantizeGivesExactMultiples : Obligations.QuantizeGivesExactMultiples := by
  intro t v b c hdepth
  obtain ⟨hscale, hc⟩ := quantizeScale hdepth
  have hquantize : quantize t v b = f32Div (t.at 1) (f32RoundHalfAway (f32Mul t v c)) c := by
    simp only [quantize, hscale]
  refine ⟨⟨t, t.at 1, hquantize⟩, fun hfinite => ?_⟩
  obtain ⟨a, m, hm⟩ := f32Finite_iff.mp hfinite
  rw [hquantize]
  exact ⟨a, _, f32Val_div_scale _ (by omega) (f32Val_roundHalfAway hm) hc⟩

end Sys2Proof.Machine
end

section
/-! PROOFS. What the operations give on zeros, on 1.0, on infinities and on NaNs, and with it R192: O33, the mix that
leaves its input, and O32, the silent preset. -/

namespace Sys2Proof.Machine

/-! ### Zeros, infinities and NaNs -/

/-- The zero of a sign. -/
def signedZero (neg : Bool) : Word := if neg then 0x80000000 else 0

@[simp] theorem signedZero_false : signedZero false = 0 := rfl

theorem ofNat_withSign_zero (neg : Bool) : BitVec.ofNat 32 (binary32.withSign neg 0) = signedZero neg := by
  cases neg <;> rfl

theorem roundRatio_zero (neg : Bool) {den : Nat} (hden : 0 < den) :
    BitVec.ofNat 32 (binary32.roundRatio neg 0 den) = signedZero neg := by
  rw [binary32.roundRatio_exact (p := 0) neg hden (by decide) (by simp [FloatFormat.magOf]), ofNat_withSign_zero]

@[simp] theorem f32Val_signedZero (neg : Bool) : f32Val (signedZero neg) = .fin neg 0 := by
  cases neg <;> decide +kernel

@[simp] theorem f32Val_zero : f32Val 0 = .fin false 0 := f32Val_signedZero false

theorem f32Val_one : f32Val 0x3F800000 = .fin false (2 ^ 149) := by decide +kernel

theorem eq_signedZero {x : Word} {a : Bool} (h : f32Val x = .fin a 0) : x = signedZero a := by
  rw [← roundRatio_self h Nat.one_pos, Nat.zero_mul, roundRatio_zero a Nat.one_pos]

/-- An infinite word is the pattern of its sign. -/
theorem eq_of_f32Val_inf {x : Word} {a : Bool} (h : f32Val x = .inf a) :
    BitVec.ofNat 32 (binary32.withSign a binary32.infPattern) = x := by
  rw [f32Val_eq] at h
  split_ifs at h with hinf
  obtain rfl : x.getLsbD 31 = a := FloatVal.inf.inj h
  rw [binary32_infPattern, ← hinf, ← toNat_eq_withSign, BitVec.ofNat_toNat, BitVec.setWidth_eq]

/-- Whatever free value NAN_VALUE takes, the result is a NaN (R11). -/
theorem f32Val_nanPattern (t : NanTag) : f32Val (BitVec.ofNat 32 (binary32.nanPattern t)) = .nan := by
  have hpay : Config.nanPayload t % (2 ^ 23 - 1) < 2 ^ 23 - 1 := Nat.mod_lt _ (by decide)
  have hpattern : binary32.nanPattern t =
      (if Config.nanSign t then 2 ^ 31 else 0) + (0x7F800000 + 1 + Config.nanPayload t % (2 ^ 23 - 1)) := rfl
  generalize Config.nanPayload t % (2 ^ 23 - 1) = payload at hpay hpattern
  have hmod : (BitVec.ofNat 32 (binary32.nanPattern t)).toNat % 2 ^ 31 = 0x7F800000 + 1 + payload := by
    rw [BitVec.toNat_ofNat, hpattern]
    split <;> omega
  rw [f32Val_eq, hmod, if_neg (by omega), if_pos (by omega)]

/-! ### Operations on zeros and on 1.0 -/

/-- A product with a zero is the zero of the product of the signs. -/
theorem f32Mul_of_zero (t : NanTag) {x y : Word} {a b : Bool} {m n : Nat} (hx : f32Val x = .fin a m)
    (hy : f32Val y = .fin b n) (h0 : m * n = 0) : f32Mul t x y = signedZero (a ^^ b) := by
  unfold f32Mul
  rw [hx, hy]
  simp only [FloatFormat.mul, h0]
  exact roundRatio_zero _ (Nat.two_pow_pos _)

/-- A sum of zeros is -0.0 only when both are. -/
theorem f32Add_of_zeros (t : NanTag) {x y : Word} {a b : Bool} (hx : f32Val x = .fin a 0) (hy : f32Val y = .fin b 0) :
    f32Add t x y = signedZero (a && b) := by
  unfold f32Add
  rw [hx, hy]
  simp only [FloatFormat.add, signedMag_zero, Int.add_zero, if_true]
  exact ofNat_withSign_zero _

theorem f32Sub_of_zeros (t : NanTag) {x y : Word} {a b : Bool} (hx : f32Val x = .fin a 0) (hy : f32Val y = .fin b 0) :
    f32Sub t x y = signedZero (a && !b) := by
  unfold f32Sub
  rw [hx, hy]
  simp only [FloatFormat.sub, FloatFormat.neg, FloatFormat.add, signedMag_zero, Int.add_zero, if_true]
  exact ofNat_withSign_zero _

/-- A zero added to a word that is no zero and no NaN leaves the word. -/
theorem f32Add_zero_left (t : NanTag) {z x : Word} {a : Bool} (hz : f32Val z = .fin a 0) (hnan : f32Val x ≠ .nan)
    (hzero : ∀ b, f32Val x ≠ .fin b 0) : f32Add t z x = x := by
  unfold f32Add
  rw [hz]
  cases hx : f32Val x with
  | nan => exact absurd hx hnan
  | inf b => exact eq_of_f32Val_inf hx
  | fin b n =>
    have hn : 0 < n := Nat.pos_of_ne_zero fun h0 => hzero b (h0 ▸ hx)
    have hne : FloatFormat.signedMag b n ≠ 0 := fun h0 => hn.ne' (by rw [← natAbs_signedMag b n, h0, Int.natAbs_zero])
    have hsign : decide (FloatFormat.signedMag b n < 0) = b := by simp [signedMag_neg_iff hn]
    simp only [FloatFormat.add, signedMag_zero, Int.zero_add, if_neg hne, hsign, natAbs_signedMag]
    have hself := roundRatio_self hx Nat.one_pos
    rwa [Nat.mul_one] at hself

/-- A product with 1.0 is the other factor, unless that is a NaN. -/
theorem f32Mul_one_right (t : NanTag) {x : Word} (hnan : f32Val x ≠ .nan) : f32Mul t x 0x3F800000 = x := by
  unfold f32Mul
  rw [f32Val_one]
  cases hx : f32Val x with
  | nan => exact absurd hx hnan
  | inf b =>
    simp only [FloatFormat.mul, if_neg (Nat.two_pow_pos 149).ne', Bool.xor_false]
    exact eq_of_f32Val_inf hx
  | fin b n =>
    simp only [FloatFormat.mul, Bool.xor_false]
    exact roundRatio_self hx (Nat.two_pow_pos 149)

theorem f32Mul_nan_left (t : NanTag) {x : Word} (h : f32Val x = .nan) (y : Word) : f32Val (f32Mul t x y) = .nan := by
  unfold f32Mul
  rw [h]
  exact f32Val_nanPattern t

theorem f32Add_nan_right (t : NanTag) (x : Word) {y : Word} (h : f32Val y = .nan) : f32Val (f32Add t x y) = .nan := by
  unfold f32Add
  rw [h]
  cases f32Val x <;> exact f32Val_nanPattern t

/-! ### The mix that leaves its input -/

/-- With WET = +0.0, DRY = 1.0 and MASTER = 1.0, the mix of a number and a finite wet signal is the input added to a zero
of the wet signal's sign. -/
theorem mix_identity {s : State} (t : NanTag) {out x : Word} (hwet : s.wet = 0) (hdry : s.dry = 0x3F800000)
    (hmaster : s.master = 0x3F800000) (hout : f32Finite out = true) (hnan : f32Val x ≠ .nan)
    (hsum : f32Val (f32Add (t.at 2) (signedZero (out.getLsbD 31)) x) ≠ .nan) :
    s.mix t out x = f32Add (t.at 2) (signedZero (out.getLsbD 31)) x := by
  obtain ⟨a, m, hval⟩ := f32Finite_iff.mp hout
  obtain ⟨-, rfl, -⟩ := f32Val_eq_fin_iff.mp hval
  have hzero : f32Mul t out 0 = signedZero (out.getLsbD 31) := by
    rw [f32Mul_of_zero t hval f32Val_zero (Nat.mul_zero m), Bool.xor_false]
  rw [State.mix, hwet, hdry, hmaster, hzero, f32Mul_one_right _ hnan, f32Mul_one_right _ hsum]

/-- Settles O33: the input passes through an addition of a zero, which keeps all but -0.0 (`f32Add_zero_left`,
`f32Add_of_zeros`), and two products with 1.0; a NaN stays one. -/
theorem identityMix : Obligations.IdentityMix := by
  intro s t out x hwet hdry hmaster hout
  refine ⟨fun hx hnan => ?input, fun hx => ?negativeZero, fun hnan => ?nan⟩
  case input =>
    have hsum : f32Add (t.at 2) (signedZero (out.getLsbD 31)) x = x := by
      by_cases hzero : ∀ b, f32Val x ≠ .fin b 0
      · exact f32Add_zero_left _ (f32Val_signedZero _) hnan hzero
      · push Not at hzero
        obtain ⟨b, hb⟩ := hzero
        cases b with
        | true => exact absurd (eq_signedZero hb) hx
        | false => rw [f32Add_of_zeros _ (f32Val_signedZero _) hb, Bool.and_false, eq_signedZero hb]
    rw [mix_identity t hwet hdry hmaster hout hnan (by rwa [hsum]), hsum]
  case negativeZero =>
    have hval : f32Val x = .fin true 0 := hx ▸ f32Val_signedZero true
    have hsum : f32Add (t.at 2) (signedZero (out.getLsbD 31)) x = signedZero (out.getLsbD 31) := by
      rw [f32Add_of_zeros _ (f32Val_signedZero _) hval, Bool.and_true]
    rw [mix_identity t hwet hdry hmaster hout (by rw [hval]; nofun) (by rw [hsum, f32Val_signedZero]; nofun), hsum]
    rfl
  case nan => exact f32Mul_nan_left _ (f32Add_nan_right _ _ (f32Mul_nan_left _ hnan _)) _

/-! ### The silent preset -/

/-- All gains +0.0, and a buffer, not empty, of +0.0: what a silent preset starts from and keeps (R192). -/
structure SilentBuffer (s : State) : Prop where
  gains : s.derived.silent
  nonempty : 0 < s.buflen.toNat
  zero : s.bufferZero

/-- Storing +0.0 keeps a buffer of +0.0. -/
theorem SilentBuffer.setDelayWord {s : State} (h : SilentBuffer s) (i : Nat) : SilentBuffer (s.setDelayWord i 0) where
  gains := h.gains
  nonempty := h.nonempty
  zero j hj := by
    rcases eq_or_ne j i with rfl | hne
    · exact delayWord_setDelayWord_same s j 0
    · rw [delayWord_setDelayWord_other s hne]
      exact h.zero j hj

theorem SilentBuffer.delayWord_tap {s : State} (h : SilentBuffer s) (offset extra : Nat) :
    s.delayWord (tapIndex s.buflen.toNat s.cursor.toNat offset extra) = 0 :=
  h.zero _ (tapIndex_lt h.nonempty _ _ _)

@[simp] theorem f32Mul_zero_zero (t : NanTag) : f32Mul t 0 0 = 0 := f32Mul_of_zero t f32Val_zero f32Val_zero rfl
@[simp] theorem f32Add_zero_zero (t : NanTag) : f32Add t 0 0 = 0 := f32Add_of_zeros t f32Val_zero f32Val_zero
@[simp] theorem f32Sub_zero_zero (t : NanTag) : f32Sub t 0 0 = 0 := f32Sub_of_zeros t f32Val_zero f32Val_zero

/-- With gains of +0.0 the reflection filter of zeros is +0.0, also for an input of -0.0. -/
theorem reflectionFilter_zero (t : NanTag) {inp : Word} {a : Bool} (h : f32Val inp = .fin a 0) :
    reflectionFilter t 0 0 inp 0 0 = 0 := by
  have hinp : f32Add (t.at 1) inp 0 = 0 := by rw [f32Add_of_zeros _ h f32Val_zero, Bool.and_false, signedZero_false]
  simp only [reflectionFilter, f32Mul_zero_zero, hinp, f32Sub_zero_zero, f32Add_zero_zero]

theorem SilentBuffer.reflect {s : State} (h : SilentBuffer s) (t : NanTag) {inp : Word} {a : Bool}
    (hinp : f32Val inp = .fin a 0) (wall tap : Word) : SilentBuffer (s.reflect t inp wall tap) := by
  obtain ⟨hIIR, -, -, -, -, hWALL, -⟩ := h.gains
  have hstored : s.reflect t inp wall tap = s.setDelayWord (s.tapA tap) 0 := by
    rw [State.reflect, hIIR, hWALL, State.tapA, State.tapA, State.tapA1, h.delayWord_tap, h.delayWord_tap,
      reflectionFilter_zero t hinp]
  rw [hstored]
  exact h.setDelayWord _

theorem SilentBuffer.reflections {s : State} (h : SilentBuffer s) (e : Nat) {lin rin : Word} {a b : Bool}
    (hl : f32Val lin = .fin a 0) (hr : f32Val rin = .fin b 0) : SilentBuffer (s.reflections e lin rin) := by
  rw [reflections_eq rfl rfl rfl]
  exact (((h.reflect _ hl _ _).reflect _ hr _ _).reflect _ hl _ _).reflect _ hr _ _

theorem SilentBuffer.combSum {s : State} (h : SilentBuffer s) (t : NanTag) (o1 o2 o3 o4 : Word) :
    s.combSum t o1 o2 o3 o4 = 0 := by
  obtain ⟨-, h1, h2, h3, h4, -⟩ := h.gains
  simp only [State.combSum, State.tapA, h.delayWord_tap, h1, h2, h3, h4, f32Mul_zero_zero, f32Add_zero_zero]

/-- An all-pass stage of a silent buffer stores and gives +0.0. -/
theorem SilentBuffer.allPass {s : State} (h : SilentBuffer s) (t : NanTag) (mo d : Word) {g : Word} (hg : g = 0) :
    ∃ v, s.allPass t 0 mo d g = (v, 0) ∧ SilentBuffer v := by
  refine ⟨s.setDelayWord (s.tapA mo) 0, ?_, h.setDelayWord _⟩
  simp only [State.allPass, State.tapAd, h.delayWord_tap, hg, allPassStored, allPassOut, f32Mul_zero_zero,
    f32Sub_zero_zero, f32Add_zero_zero]

theorem SilentBuffer.allPasses {s : State} (h : SilentBuffer s) (e : Nat) :
    ∃ v, s.allPasses e 0 0 = (v, 0, 0) ∧ SilentBuffer v := by
  obtain ⟨-, -, -, -, -, -, h1, h2, -⟩ := h.gains
  obtain ⟨l1, hl1, hsilent⟩ := h.allPass ⟨e, 36⟩ s.derived.S_mLAPF1 s.derived.S_dAPF1 h1
  obtain ⟨r1, hr1, hsilent⟩ := hsilent.allPass ⟨e, 40⟩ s.derived.S_mRAPF1 s.derived.S_dAPF1 h1
  obtain ⟨l2, hl2, hsilent⟩ := hsilent.allPass ⟨e, 44⟩ s.derived.S_mLAPF2 s.derived.S_dAPF2 h2
  obtain ⟨r2, hr2, hsilent⟩ := hsilent.allPass ⟨e, 48⟩ s.derived.S_mRAPF2 s.derived.S_dAPF2 h2
  exact ⟨r2, allPasses_eq hl1.symm hr1.symm hl2.symm hr2.symm, hsilent⟩

/-- One sample of finite input leaves a silent buffer silent, and its wet pair is +0.0 (R192). -/
theorem SilentBuffer.kernel {s : State} (h : SilentBuffer s) {xL xR : Word} (hL : f32Finite xL = true)
    (hR : f32Finite xR = true) : ∃ u tl tr, s.kernel xL xR = (u, s.mix tl 0 xL, s.mix tr 0 xR) ∧ SilentBuffer u := by
  obtain ⟨-, -, -, -, -, -, -, -, hLIN, hRIN⟩ := h.gains
  have hinput {x g : Word} (t : NanTag) (hg : g = 0) (hx : f32Finite x = true) : ∃ a, f32Val (f32Mul t x g) = .fin a 0 := by
    obtain ⟨a, m, hval⟩ := f32Finite_iff.mp hx
    rw [hg, f32Mul_of_zero t hval f32Val_zero (Nat.mul_zero m)]
    exact ⟨_, f32Val_signedZero _⟩
  obtain ⟨a, hlin⟩ := hinput ⟨s.freeCount, 0⟩ hLIN hL
  obtain ⟨b, hrin⟩ := hinput ⟨s.freeCount, 1⟩ hRIN hR
  have hreflections := h.reflections s.freeCount hlin hrin
  obtain ⟨v, hv, hsilent⟩ := hreflections.allPasses s.freeCount
  refine ⟨v.advanceCursor.nextEpoch, _, _, kernel_stages rfl rfl rfl rfl ?_, ⟨hsilent.gains, hsilent.nonempty, hsilent.zero⟩⟩
  rw [State.combLeft, State.combRight, hreflections.combSum, hreflections.combSum, hv]

/-- Settles O32, by induction over the samples: each keeps the buffer silent (`SilentBuffer.kernel`) and the three gains of
the mix. -/
theorem silentPresetStaysSilent : Obligations.SilentPresetStaysSilent := by
  intro xs s hgains hlen hzero
  have hs : SilentBuffer s := ⟨hgains, hlen, hzero⟩
  clear hgains hlen hzero
  induction xs generalizing s with
  | nil => exact fun _ => ⟨hs.zero, fun k x y hx => by simp at hx⟩
  | cons x xs ih =>
    intro hfinite
    obtain ⟨hx, hxs⟩ := List.forall_mem_cons.mp hfinite
    obtain ⟨u, tl, tr, hkernel, hu⟩ := hs.kernel hx.1 hx.2
    have hmix (t : NanTag) (out y : Word) : u.mix t out y = s.mix t out y := by
      obtain rfl : (s.kernel x.1 x.2).1 = u := congrArg Prod.fst hkernel
      exact mix_congr (by rw [kernel_eq]) (by rw [kernel_eq]) (by rw [kernel_eq]) t out y
    obtain ⟨hbuffer, houtputs⟩ := ih u hu hxs
    simp only [State.runKernel, hkernel]
    refine ⟨hbuffer, fun k a b ha hb => ?_⟩
    cases k with
    | zero =>
      obtain rfl : x = a := by simpa using ha
      exact ⟨tl, tr, by simpa using hb.symm⟩
    | succ k =>
      obtain ⟨tl', tr', hout⟩ := houtputs k a b (by simpa using ha) (by simpa using hb)
      exact ⟨tl', tr', by rw [hout, hmix, hmix]⟩

end Sys2Proof.Machine
end

section
/-! PROOFS. INIT and PROCESS (41_control_commands.md R151, 44_process.md R232, R233): O16, O17, O18, O19, O20, O21. -/

namespace Sys2Proof.Machine

/-! ### The rates that INIT accepts -/

/-- A rate is finite and positive when its pattern lies between those of +0.0 and of infinity (R151). -/
theorem rateWord_iff {r : Word} : rateWord r ↔ ∃ m, 0 < m ∧ f32Val r = .fin false m := by
  have hsplit := toNat_eq_withSign r
  rw [FloatFormat.withSign, binary32_signWeight] at hsplit
  have hmag : ∀ p, 0 < p ↔ 0 < binary32.magOf p := fun p => by
    have hzero : binary32.magOf 0 = 0 := by simp [FloatFormat.magOf]
    conv_rhs => rw [← hzero]
    exact binary32.magOf_strictMono.lt_iff_lt.symm
  constructor
  · rintro ⟨hpos, hlt⟩
    have hsign : r.getLsbD 31 = false := by
      cases hbit : r.getLsbD 31
      · rfl
      · rw [hbit, if_pos rfl] at hsplit; omega
    exact ⟨_, (hmag _).mp (by omega), f32Val_eq_fin_iff.mpr ⟨by omega, hsign, rfl⟩⟩
  · rintro ⟨m, hm, hval⟩
    obtain ⟨hp, hsign, rfl⟩ := f32Val_eq_fin_iff.mp hval
    rw [hsign, if_neg (by decide)] at hsplit
    have hpos := (hmag _).mpr hm
    exact ⟨by omega, by omega⟩

theorem f32FinitePositive_iff {r : Word} : f32FinitePositive r = true ↔ rateWord r := by
  rw [rateWord_iff, f32FinitePositive]
  split <;> simp_all [Nat.pos_iff_ne_zero]

theorem f32FinitePositive_eq_false_iff {r : Word} : f32FinitePositive r = false ↔ ¬ rateWord r := by
  rw [← f32FinitePositive_iff, Bool.not_eq_true]

/-! ### INIT -/

theorem exec_init_badRate {s : State} (h : ¬ rateWord s.pending.arg) : exec .init s = .next (s.raiseError .badRate) := by
  have hrate : f32FinitePositive s.operandArg = false := f32FinitePositive_eq_false_iff.mpr h
  change execInit s = _
  simp only [execInit, hrate, if_true]

theorem exec_init_bufCap {s : State} (h : rateWord s.pending.arg) (hcap : Config.bufCap < bufferLength s.pending.arg) :
    exec .init s = .next (s.raiseError .bufCap) := by
  have hrate : f32FinitePositive s.operandArg = true := f32FinitePositive_iff.mpr h
  change execInit s = _
  simp only [execInit, hrate, Bool.true_eq_false, if_false]
  exact if_pos hcap

theorem exec_init_accepts {s : State} (h : rateWord s.pending.arg) (hcap : bufferLength s.pending.arg ≤ Config.bufCap) :
    exec .init s = .next (s.initEngine s.pending.arg).complete := by
  have hrate : f32FinitePositive s.operandArg = true := f32FinitePositive_iff.mpr h
  change execInit s = _
  simp only [execInit, hrate, Bool.true_eq_false, if_false]
  exact if_neg (not_lt_of_ge hcap)

/-- Settles O16: the two checks of INIT in their order, each ending in an error, which changes STATUS alone. -/
theorem initRejectsBadRates : Obligations.InitRejectsBadRates :=
  fun _ => ⟨exec_init_badRate, exec_init_bufCap⟩

/-- A buffer within the delay memory has a length that BUFLEN holds. -/
theorem initEngine_buflen_toNat {s : State} {r : Word} (h : bufferLength r ≤ Config.bufCap) :
    (s.initEngine r).buflen.toNat = bufferLength r := by
  have hcap : Config.bufCap < 2 ^ 32 := by decide
  rw [initEngine_buflen, BitVec.toNat_ofNat, Nat.mod_eq_of_lt (lt_of_le_of_lt h hcap)]

/-- What an accepted rate does ends with a load, so the buffer of the new length is zeroed and the rest of B is kept. -/
theorem delayWord_initEngine_below (s : State) (r : Word) {k : Nat} (h : k < (s.initEngine r).buflen.toNat) :
    (s.initEngine r).delayWord k = 0 :=
  delayWord_loadPreset_below _ _ h

theorem delay_byte_initEngine_above (s : State) (r : Word) {a : Nat} (h : 4 * (s.initEngine r).buflen.toNat ≤ a) :
    (s.initEngine r).delay.byte a = s.delay.byte a :=
  delay_byte_loadPreset_above _ _ h

/-- Settles O17: the registers are those of `initEngine`; its load zeroes the buffer and keeps the bytes above. -/
theorem initAllocatesAndZeroes : Obligations.InitAllocatesAndZeroes := by
  intro s hrate hcap
  have hlen : (s.initEngine s.pending.arg).buflen.toNat = bufferLength s.pending.arg := initEngine_buflen_toNat hcap
  refine ⟨_, exec_init_accepts hrate hcap, rfl, hlen, fun k hk => ?_, fun a ha => ?_⟩
  · exact delayWord_initEngine_below s _ (hlen.symm ▸ hk)
  · exact delay_byte_initEngine_above s _ (hlen.symm ▸ ha)

/-! ### PROCESS -/

theorem exec_process_notInit {n : Nat} {s : State} (h : s.ready = false) :
    exec (.process n) s = .next (s.raiseError .notInit) := by
  change execProcess n s = _
  rw [execProcess, if_pos h]

theorem exec_process_blockLen {n : Nat} {s : State} (h : s.ready = true) (hn : Config.blockMax < n) :
    exec (.process n) s = .next (s.raiseError .blockLen) := by
  change execProcess n s = _
  rw [execProcess, if_neg (by simp [h]), if_pos hn]

theorem exec_process_block {n : Nat} {s : State} (h : s.ready = true) (hn : n ≤ Config.blockMax) :
    exec (.process n) s = .next (s.processBlock n).complete := by
  change execProcess n s = _
  rw [execProcess, if_neg (by simp [h]), if_neg (not_lt_of_ge hn)]

/-- Settles O18: the two checks of PROCESS in their order, each ending in an error, which changes STATUS alone. -/
theorem processErrorsInOrder : Obligations.ProcessErrorsInOrder :=
  fun _ _ => ⟨exec_process_notInit, exec_process_blockLen⟩

@[simp] theorem runBlock_outputs_length (s : State) (n : Nat) : (s.runBlock n).2.length = n := by
  simp [State.runBlock]

/-- A run over a block changes B, CURSOR and the free-value counter alone. -/
theorem runBlock_eq (s : State) (n : Nat) : (s.runBlock n).1 =
    { s with delay := (s.runBlock n).1.delay, cursor := (s.runBlock n).1.cursor,
             freeCount := (s.runBlock n).1.freeCount } := by
  rw [State.runBlock, runKernel_eq]

theorem exists_writeBlock_eq (s : State) (c : Channel) (k : Nat) (ys : List Word) :
    ∃ m, s.writeBlock c k ys = { s with samples := m } :=
  ⟨_, writeBlock_eq s c k ys⟩

/-- A PROCESS that raises no error changes SL and SR, and what its run does: B, CURSOR and the free-value counter. -/
theorem processBlock_eq (s : State) (n : Nat) : s.processBlock n =
    { s with samples := (s.processBlock n).samples, delay := (s.runBlock n).1.delay, cursor := (s.runBlock n).1.cursor,
             freeCount := (s.runBlock n).1.freeCount } := by
  obtain ⟨m, hm⟩ := exists_writeBlock_eq (s.runBlock n).1 .left 0 (s.outputLeft n)
  obtain ⟨m', hm'⟩ := exists_writeBlock_eq { (s.runBlock n).1 with samples := m } .right 0 (s.outputRight n)
  have hblock : s.processBlock n = { (s.runBlock n).1 with samples := m' } := by rw [State.processBlock, hm, hm']
  rw [hblock, runBlock_eq]

theorem runBlock_cursor {s : State} (n : Nat) (h : s.cursor.toNat < s.buflen.toNat) :
    (s.runBlock n).1.cursor.toNat = (s.cursor.toNat + n) % s.buflen.toNat := by
  have hrun := runKernel_cursor { s with freeCount := s.freeCount + 2 } ((s.inputLeft n).zip (s.inputRight n)) h
  rwa [List.length_zip, inputLeft_length, inputRight_length, Nat.min_self] at hrun

theorem runBlock_delay_above {s : State} (n : Nat) (h0 : 0 < s.buflen.toNat) {a : Nat} (ha : 4 * s.buflen.toNat ≤ a) :
    (s.runBlock n).1.delay.byte a = s.delay.byte a :=
  runKernel_delay_above { s with freeCount := s.freeCount + 2 } _ h0 ha

theorem runBlock_delay_wf {s : State} (n : Nat) (h : s.delay.wf = true) : (s.runBlock n).1.delay.wf = true :=
  runKernel_delay_wf { s with freeCount := s.freeCount + 2 } _ h

/-- A block of a channel lies apart from the other channel's samples (20_memory.md R70, R74). -/
theorem sample_writeBlock_otherChannel (s : State) {c c' : Channel} (hc : c' ≠ c) {ys : List Word}
    (hlen : ys.length ≤ 8192) {j : Nat} (hj : j < 8192) : (s.writeBlock c 0 ys).sample c' j = s.sample c' j := by
  refine Memory.word_congr fun x hlow hhigh => samples_byte_writeBlock s c 0 ys ?_
  cases c <;> cases c' <;>
    simp only [sampleOffset, Channel.base, Config.slBase, Config.srBase, ne_eq, not_true_eq_false] at hc hlow hhigh ⊢ <;>
    omega

/-- SL holds the left outputs, SR the right ones. -/
theorem sample_left_processBlock {s : State} {n j : Nat} (hn : n ≤ 8192) (hj : j < n) :
    (s.processBlock n).sample .left j = (s.outputLeft n)[j]'(by rwa [outputLeft_length]) := by
  rw [State.processBlock, sample_writeBlock_otherChannel _ (by decide) (by rwa [outputRight_length]) (by omega)]
  have hsame := sample_writeBlock_same (s.runBlock n).1 .left 0 (s.outputLeft n) (by rwa [outputLeft_length])
  rwa [Nat.zero_add] at hsame

theorem sample_right_processBlock {s : State} {n j : Nat} (hj : j < n) :
    (s.processBlock n).sample .right j = (s.outputRight n)[j]'(by rwa [outputRight_length]) := by
  have hsame := sample_writeBlock_same ((s.runBlock n).1.writeBlock .left 0 (s.outputLeft n)) .right 0 (s.outputRight n)
    (by rwa [outputRight_length])
  rwa [Nat.zero_add] at hsame

/-- The samples that PROCESS leaves, by the run's outputs: in mono the left ones twice (R232, R233). -/
theorem samples_processBlock {s : State} {n j : Nat} {y : Word × Word} (hn : n ≤ 8192)
    (hy : (s.runBlock n).2[j]? = some y) :
    (s.processBlock n).sample .left j = y.1 ∧
      (s.processBlock n).sample .right j = if s.mono then y.1 else y.2 := by
  obtain ⟨hlt, rfl⟩ := List.getElem?_eq_some_iff.mp hy
  rw [runBlock_outputs_length] at hlt
  rw [sample_left_processBlock hn hlt, sample_right_processBlock hlt]
  cases hmono : s.mono <;> simp [State.outputLeft, State.outputRight, hmono]

/-- PROCESS stores no byte of SL and SR but those of its block. -/
theorem samples_byte_processBlock {s : State} {n a : Nat}
    (hleft : a < sampleOffset .left 0 ∨ sampleOffset .left n ≤ a)
    (hright : a < sampleOffset .right 0 ∨ sampleOffset .right n ≤ a) :
    (s.processBlock n).samples.byte a = s.samples.byte a := by
  have hend (c : Channel) : sampleOffset c n = sampleOffset c 0 + 4 * n := rfl
  rw [hend] at hleft hright
  rw [State.processBlock, samples_byte_writeBlock _ _ _ _ (by rwa [outputRight_length]),
    samples_byte_writeBlock _ _ _ _ (by rwa [outputLeft_length]), runBlock_eq]

/-- Settles O19: the run is the kernel's over the crushed inputs; the samples, the cursor and the frames are those of the
lemmas on `processBlock` and `runBlock`. -/
theorem processWritesTheBlockAndTheCursor : Obligations.ProcessWritesTheBlockAndTheCursor := by
  refine ⟨fun _ => rfl, fun _ _ _ => rfl, fun n s hready hn hcursor => ?_⟩
  have hstate := processBlock_eq s n
  have hread (c : Channel) : ∀ j < n, (s.readBlock c n)[j]? = some (s.sample c j) := fun j hj => by
    rw [State.readBlock, List.getElem?_map, List.getElem?_range hj, Option.map_some]
  refine ⟨_, exec_process_block hready hn, ?_, ?_, ?_, fun a => samples_byte_processBlock, fun a ha => ?_⟩
  · rw [hstate]; rfl
  · rw [hstate]; exact runBlock_cursor n hcursor
  · refine ⟨s.readBlock .left n, s.readBlock .right n, s.inputLeft n, s.inputRight n, s.freeCount, s.freeCount + 1,
      s.freeCount + 2, (s.runBlock n).1, (s.runBlock n).2, readBlock_length _ _ _, hread .left, rfl, readBlock_length _ _ _,
      hread .right, rfl, rfl, runBlock_outputs_length s n, ?_, ?_, fun j y hy => samples_processBlock hn hy⟩
    · rw [hstate]; rfl
    · rw [hstate]; rfl
  · rw [hstate]; exact runBlock_delay_above n (by omega) ha

/-- Settles O20: with no samples the run and the two stores do nothing. -/
theorem processOfNothing : Obligations.ProcessOfNothing := by
  intro s hready
  refine ⟨s.freeCount + 2, ?_⟩
  have hleft : s.inputLeft 0 = [] := List.eq_nil_of_length_eq_zero (inputLeft_length s 0)
  have houtL : s.outputLeft 0 = [] := List.eq_nil_of_length_eq_zero (outputLeft_length s 0)
  have houtR : s.outputRight 0 = [] := List.eq_nil_of_length_eq_zero (outputRight_length s 0)
  rw [exec_process_block hready (Nat.zero_le _), State.processBlock, houtL, houtR, State.runBlock, hleft]
  rfl

/-- Settles O21: in mono both channels hold the left outputs (`samples_processBlock`). -/
theorem monoOutputsAreIdentical : Obligations.MonoOutputsAreIdentical := by
  intro n s hready hmono hn
  refine ⟨_, exec_process_block hready hn, fun k hk => ?_⟩
  obtain ⟨y, hy⟩ : ∃ y, (s.runBlock n).2[k]? = some y :=
    ⟨_, List.getElem?_eq_getElem (by rwa [runBlock_outputs_length])⟩
  obtain ⟨hleft, hright⟩ := samples_processBlock hn hy
  rw [hmono, if_pos rfl] at hright
  exact hleft.trans hright.symm

end Sys2Proof.Machine
end

section
/-! PROOFS. What every command can do, once: the states a command can end in (`CommandEffect`) and what every command keeps
(`CommandFrame`). With them the life of a command (60_exceptions.md R252 to R254) and the reach of each command: O5, O7,
O10, O24. -/

namespace Sys2Proof.Machine

/-! ### The states a command ends in -/

/-- The ways each command can end, from a state `s` (R150 to R156, R210, R230, R232). -/
inductive CommandEffect (s : State) : Instr → State → Prop where
  | nop : CommandEffect s .nop s.complete
  | initRejects (c : ErrCode) (hc : c ≠ .none) : CommandEffect s .init (s.raiseError c)
  | initAccepts (hrate : rateWord s.pending.arg) (hcap : bufferLength s.pending.arg ≤ Config.bufCap) :
      CommandEffect s .init (s.initEngine s.pending.arg).complete
  | presetIgnored (imm : Nat) : CommandEffect s (.setPreset imm) s.complete
  | presetSwitches (i : Fin 10) : CommandEffect s (.setPreset i.val) (s.switchPreset i).complete
  | setWet : CommandEffect s .setWet { s with wet := s.pending.arg }.complete
  | setDry : CommandEffect s .setDry { s with dry := s.pending.arg }.complete
  | setMaster : CommandEffect s .setMaster { s with master := s.pending.arg }.complete
  | setCrush (imm : Nat) (level : Fin 4) : CommandEffect s (.setCrush imm) { s with crush := level }.complete
  | setChannels (imm : Nat) (mono : Bool) : CommandEffect s (.setChannels imm) { s with mono := mono }.complete
  | processRejects (n : Nat) (c : ErrCode) (hc : c ≠ .none) : CommandEffect s (.process n) (s.raiseError c)
  | processBlock (n : Nat) (hready : s.ready = true) (hn : n ≤ Config.blockMax) :
      CommandEffect s (.process n) (s.processBlock n).complete

/-- Every command ends, in every state, in one of those ways. -/
theorem exists_exec_eq_next (i : Instr) (s : State) : ∃ t, exec i s = .next t ∧ CommandEffect s i t := by
  cases i with
  | nop => exact ⟨_, exec_nop s, .nop⟩
  | init =>
    by_cases hrate : rateWord s.pending.arg
    · rcases Nat.lt_or_ge Config.bufCap (bufferLength s.pending.arg) with hcap | hcap
      · exact ⟨_, exec_init_bufCap hrate hcap, .initRejects _ nofun⟩
      · exact ⟨_, exec_init_accepts hrate hcap, .initAccepts hrate hcap⟩
    · exact ⟨_, exec_init_badRate hrate, .initRejects _ nofun⟩
  | setPreset imm =>
    by_cases hignored : 9 < imm ∨ imm = s.preset.val
    · exact ⟨_, exec_setPreset_ignored hignored, .presetIgnored imm⟩
    · push Not at hignored
      obtain ⟨i, rfl⟩ : ∃ i : Fin 10, i.val = imm := ⟨⟨imm, by omega⟩, rfl⟩
      exact ⟨_, exec_setPreset_switches i (Fin.ne_of_val_ne hignored.2), .presetSwitches i⟩
  | setWet => exact ⟨_, exec_setWet s, .setWet⟩
  | setDry => exact ⟨_, exec_setDry s, .setDry⟩
  | setMaster => exact ⟨_, exec_setMaster s, .setMaster⟩
  | setCrush imm => exact ⟨_, exec_setCrush imm s, .setCrush imm _⟩
  | setChannels imm => exact ⟨_, exec_setChannels imm s, .setChannels imm _⟩
  | process n =>
    cases hready : s.ready with
    | false => exact ⟨_, exec_process_notInit hready, .processRejects n _ nofun⟩
    | true =>
      rcases Nat.lt_or_ge Config.blockMax n with hn | hn
      · exact ⟨_, exec_process_blockLen hready hn, .processRejects n _ nofun⟩
      · exact ⟨_, exec_process_block hready hn, .processBlock n hready hn⟩

theorem commandEffect_of_exec {i : Instr} {s t : State} (h : exec i s = .next t) : CommandEffect s i t := by
  obtain ⟨t', hexec, heffect⟩ := exists_exec_eq_next i s
  obtain rfl : t' = t := Host.Outcome.next.inj (hexec.symm.trans h)
  exact heffect

/-! ### What every command keeps -/

/-- What is out of every command's reach, and how every command ends (20_memory.md R79, R253, R254). -/
structure CommandFrame (s t : State) : Prop where
  irqEn : t.irqEn = s.irqEn
  arg : t.arg = s.arg
  pending : t.pending = s.pending
  schedule : t.schedule = s.schedule
  response : t.response = s.response
  resetLine : t.resetLine = s.resetLine
  hazard : t.hazard = s.hazard
  params : t.params = s.params
  busy : t.busy = false
  done : t.done = true

theorem commandFrame_raiseError (s : State) (c : ErrCode) : CommandFrame s (s.raiseError c) :=
  ⟨rfl, rfl, rfl, rfl, rfl, rfl, rfl, rfl, rfl, rfl⟩

/-- A switch changes PRESET, DERIVED and B alone, and all but PRESET only when READY (R152). -/
theorem switchPreset_eq (s : State) (i : Fin 10) : s.switchPreset i =
    { s with preset := i, derived := (s.switchPreset i).derived, delay := (s.switchPreset i).delay } := by
  unfold State.switchPreset
  split_ifs <;> rfl

theorem CommandEffect.frame {i : Instr} {s t : State} (h : CommandEffect s i t) : CommandFrame s t := by
  cases h with
  | initRejects c | processRejects n c => exact commandFrame_raiseError s c
  | presetSwitches i => rw [switchPreset_eq]; exact ⟨rfl, rfl, rfl, rfl, rfl, rfl, rfl, rfl, rfl, rfl⟩
  | processBlock n => rw [processBlock_eq]; exact ⟨rfl, rfl, rfl, rfl, rfl, rfl, rfl, rfl, rfl, rfl⟩
  | nop | initAccepts | presetIgnored | setWet | setDry | setMaster | setCrush | setChannels =>
    exact ⟨rfl, rfl, rfl, rfl, rfl, rfl, rfl, rfl, rfl, rfl⟩

/-- Executing a word, a reserved one too, ends in a state that keeps what no command reaches. -/
theorem exists_execWord_eq_next (w : Word) (s : State) : ∃ t, execWord w s = .next t ∧ CommandFrame s t := by
  cases hdecode : decode w with
  | ok i =>
    obtain ⟨t, hexec, heffect⟩ := exists_exec_eq_next i s
    exact ⟨t, (execWord_of_decode hdecode s).trans hexec, heffect.frame⟩
  | error r =>
    have hreserved : 0x09 ≤ (opcField w).toNat := by
      by_contra hdefined
      obtain ⟨i, hi⟩ := exists_decode_eq_ok (w := w) (by omega)
      rw [hi] at hdecode
      cases hdecode
    exact ⟨_, execWord_of_reserved hreserved s, commandFrame_raiseError s .badOpcode⟩

/-! ### The engine's step -/

theorem engineStep_of_enabled {s : State} (hbusy : s.busy = true) (hline : s.resetLine = false) :
    engineStep s = mapNext State.settle (execWord s.pending.cmd s) := by
  simp [engineStep, State.engineEnabled, hbusy, hline]

/-- With no command BUSY, or under reset, the engine holds its state (R252, R280). -/
theorem engineStep_of_disabled {s : State} (h : s.engineEnabled = false) : engineStep s = .next s := by
  simp [engineStep, h]

@[simp] theorem settle_busy (s : State) : s.settle.busy = s.busy := by rw [settle_eq]
@[simp] theorem settle_done (s : State) : s.settle.done = s.done := by rw [settle_eq]
@[simp] theorem settle_ready (s : State) : s.settle.ready = s.ready := by rw [settle_eq]
@[simp] theorem settle_params (s : State) : s.settle.params = s.params := by rw [settle_eq]

theorem engineStep_of_decode {s : State} {i : Instr} (hbusy : s.busy = true) (hline : s.resetLine = false)
    (hdecode : decode s.pending.cmd = .ok i) : engineStep s = mapNext State.settle (exec i s) := by
  rw [engineStep_of_enabled hbusy hline, execWord_of_decode hdecode]

theorem engineStep_of_reserved {s : State} (hbusy : s.busy = true) (hline : s.resetLine = false)
    (hreserved : 0x09 ≤ s.pending.cmd.toNat % 256) : engineStep s = .next (s.raiseError .badOpcode).settle := by
  rw [← opcField_toNat] at hreserved
  rw [engineStep_of_enabled hbusy hline, execWord_of_reserved hreserved, mapNext_next]

/-- Settles O5: the engine's turn comes on an empty schedule or as its head, and its step executes the pending word. -/
theorem stepRunsTheDecodedCommand : Obligations.StepRunsTheDecodedCommand := by
  refine ⟨fun s i hbusy hline hdecode => ⟨fun hempty => ?_, fun rest hhead => ?_⟩,
    fun s hbusy hline hreserved => ⟨fun hempty => ?_, fun rest hhead => ?_⟩, fun t => settle_of_no_hazard⟩
  · rw [step_empty hempty, engineStep_of_decode hbusy hline hdecode]
  · rw [step_event hhead]
    exact engineStep_of_decode (s := { s with schedule := rest }) hbusy hline hdecode
  · rw [step_empty hempty, engineStep_of_reserved hbusy hline hreserved]
    rfl
  · rw [step_event hhead]
    exact engineStep_of_reserved (s := { s with schedule := rest }) hbusy hline hreserved

/-- A BUSY engine's step ends the command. -/
theorem engineStep_ends {s : State} (hbusy : s.busy = true) (hline : s.resetLine = false) :
    ∃ t, engineStep s = .next t ∧ t.busy = false ∧ t.done = true := by
  obtain ⟨t, hexec, hframe⟩ := exists_execWord_eq_next s.pending.cmd s
  refine ⟨t.settle, ?_, by rw [settle_busy, hframe.busy], by rw [settle_done, hframe.done]⟩
  rw [engineStep_of_enabled hbusy hline, hexec, mapNext_next]

/-- Settles O7: the engine's turn comes on an empty schedule or as its head. -/
theorem engineStepEndsTheCommand : Obligations.EngineStepEndsTheCommand := by
  rintro s hbusy hline (hempty | ⟨rest, hhead⟩)
  · rw [step_empty hempty]
    exact engineStep_ends hbusy hline
  · rw [step_event hhead]
    exact engineStep_ends (s := { s with schedule := rest }) hbusy hline

/-! ### Steps that stop -/

theorem exists_engineStep_eq_next (s : State) : ∃ t, engineStep s = .next t ∧ t.params = s.params := by
  cases henabled : s.engineEnabled with
  | false => exact ⟨s, engineStep_of_disabled henabled, rfl⟩
  | true =>
    obtain ⟨t, hexec, hframe⟩ := exists_execWord_eq_next s.pending.cmd s
    refine ⟨t.settle, ?_, by rw [settle_params, hframe.params]⟩
    rw [engineStep, if_pos henabled, hexec, mapNext_next]

theorem assertReset_params (s : State) : s.assertReset.params = s.params := by
  cases hline : s.resetLine
  · rw [assertReset_eq hline]
  · rw [State.assertReset, if_pos hline]

theorem exists_resetAfterStep_eq_next (s : State) : ∃ t, resetAfterStep s = .next t ∧ t.params = s.params := by
  cases henabled : s.engineEnabled with
  | false => exact ⟨_, by simp [resetAfterStep, henabled], assertReset_params s⟩
  | true =>
    obtain ⟨t, hexec, hframe⟩ := exists_execWord_eq_next s.pending.cmd s
    refine ⟨t.abandon, ?_, by rw [abandon_eq, hframe.params]⟩
    rw [resetAfterStep, if_pos henabled, hexec, mapNext_next]

theorem busRead_params (s : State) (off : Nat) : (s.busRead off).params = s.params := by
  unfold State.busRead
  split
  · split <;> rfl
  · split <;> rfl
  · rfl

theorem writeReg_params (s : State) (v : Word) (r : Reg) : (s.writeReg v r).params = s.params := by
  cases r
  case cmd => simp only [State.writeReg, State.writeCmd]; split <;> rfl
  all_goals rfl

theorem busWrite_params (s : State) (off : Nat) (v : Word) : (s.busWrite off v).params = s.params := by
  unfold State.busWrite
  split
  · exact writeReg_params s v _
  · split <;> rfl
  · rfl

/-- A host access stops only outside the window (log 4). -/
theorem exists_hostAccess_eq_next {a : BusAccess} (s : State) (h : a.offset < Config.windowBytes) :
    ∃ t, hostAccess a s = .next t ∧ t.params = s.params := by
  cases a with
  | read size off =>
    simp only [hostAccess, if_neg (not_le_of_gt (show off < Config.windowBytes from h))]
    split_ifs
    · exact ⟨_, rfl, rfl⟩
    · exact ⟨_, rfl, busRead_params s off⟩
    · exact ⟨_, rfl, rfl⟩
  | write size off v =>
    simp only [hostAccess, if_neg (not_le_of_gt (show off < Config.windowBytes from h))]
    split_ifs
    · exact ⟨_, rfl, rfl⟩
    · exact ⟨_, rfl, busWrite_params s off v⟩
    · exact ⟨_, rfl, rfl⟩

theorem hostAccess_outside {a : BusAccess} (s : State) (h : Config.windowBytes ≤ a.offset) :
    hostAccess a s = .fault .outsideWindow := by
  cases a with
  | read size off => exact if_pos h
  | write size off v => exact if_pos h

/-- Settles O10: the inputs one by one; only the host's access has an outcome that is no next state. -/
theorem stepStopsOnlyOutsideTheWindow : Obligations.StepStopsOnlyOutsideTheWindow := by
  intro s
  cases hsched : s.schedule with
  | nil =>
    rw [step_empty hsched]
    exact .inl (exists_engineStep_eq_next s)
  | cons e rest =>
    rw [step_event hsched]
    cases e with
    | engine => exact .inl (exists_engineStep_eq_next { s with schedule := rest })
    | assertReset => exact .inl ⟨_, rfl, assertReset_params _⟩
    | assertResetAfterStep => exact .inl (exists_resetAfterStep_eq_next { s with schedule := rest })
    | releaseReset => exact .inl ⟨_, rfl, by unfold State.releaseReset; split <;> rfl⟩
    | access a =>
      rcases Nat.lt_or_ge a.offset Config.windowBytes with hin | hout
      · exact .inl (exists_hostAccess_eq_next { s with schedule := rest } hin)
      · exact .inr ⟨hostAccess_outside _ hout, a, rest, rfl, hout⟩

/-! ### The reach of each command -/

/-- Settles O24: the frame that every command keeps, and the ways each can end, which name what it writes. -/
theorem commandsReachTheirStateAlone : Obligations.CommandsReachTheirStateAlone := by
  intro i s t hexec
  have heffect := commandEffect_of_exec hexec
  obtain ⟨h1, h2, h3, h4, h5, h6, h7, h8, h9, h10⟩ := heffect.frame
  refine ⟨h1, h2, h3, h4, h5, h6, h7, h8, h9, h10, ?_⟩
  cases heffect with
  | presetSwitches i => rw [switchPreset_eq]; simp
  | processBlock n => rw [processBlock_eq]; simp
  | _ => simp

end Sys2Proof.Machine
end

section
/-! PROOFS. What the commands do not read: ARG (10_state.md R39), and in mono the right input block (44_process.md R233):
O9 and O22. -/

namespace Sys2Proof.Machine

/-! ### The kernel and the host's side -/

/-- The state with other sample memories and another ARG, which the kernel neither reads nor writes. -/
def State.withHost (s : State) (m : Memory) (v : Word) : State := { s with samples := m, arg := v }

section withHost
variable (s : State) (m : Memory) (v : Word)

@[simp] theorem withHost_derived : (s.withHost m v).derived = s.derived := rfl
@[simp] theorem withHost_freeCount : (s.withHost m v).freeCount = s.freeCount := rfl

theorem reflect_withHost (t : NanTag) (inp wall tap : Word) :
    (s.withHost m v).reflect t inp wall tap = (s.reflect t inp wall tap).withHost m v := rfl

theorem combSum_withHost (t : NanTag) (o1 o2 o3 o4 : Word) :
    (s.withHost m v).combSum t o1 o2 o3 o4 = s.combSum t o1 o2 o3 o4 := rfl

theorem allPass_withHost (t : NanTag) (x mo d g : Word) :
    (s.withHost m v).allPass t x mo d g = ((s.allPass t x mo d g).1.withHost m v, (s.allPass t x mo d g).2) := rfl

theorem reflections_withHost (e : Nat) (lin rin : Word) :
    (s.withHost m v).reflections e lin rin = (s.reflections e lin rin).withHost m v := by
  simp only [State.reflections, reflect_withHost, withHost_derived]

theorem allPasses_withHost (e : Nat) (lo ro : Word) :
    (s.withHost m v).allPasses e lo ro = ((s.allPasses e lo ro).1.withHost m v, (s.allPasses e lo ro).2) := by
  simp only [State.allPasses, allPass_withHost, withHost_derived]

theorem kernel_withHost (xL xR : Word) :
    (s.withHost m v).kernel xL xR = ((s.kernel xL xR).1.withHost m v, (s.kernel xL xR).2) := by
  obtain ⟨u, hu⟩ : ∃ u, u = s.reflections s.freeCount (f32Mul ⟨s.freeCount, 0⟩ xL s.derived.g_vLIN)
    (f32Mul ⟨s.freeCount, 1⟩ xR s.derived.g_vRIN) := ⟨_, rfl⟩
  obtain ⟨⟨w, lo, ro⟩, hw⟩ : ∃ w, u.allPasses s.freeCount (u.combLeft s.freeCount) (u.combRight s.freeCount) = w := ⟨_, rfl⟩
  have hu' : u.withHost m v = (s.withHost m v).reflections s.freeCount (f32Mul ⟨s.freeCount, 0⟩ xL s.derived.g_vLIN)
      (f32Mul ⟨s.freeCount, 1⟩ xR s.derived.g_vRIN) := by rw [reflections_withHost, ← hu]
  have hw' : (u.withHost m v).allPasses s.freeCount ((u.withHost m v).combLeft s.freeCount)
      ((u.withHost m v).combRight s.freeCount) = (w.withHost m v, lo, ro) := by
    rw [State.combLeft, State.combRight, combSum_withHost, combSum_withHost, allPasses_withHost]
    exact congrArg (fun r => (State.withHost r.1 m v, r.2)) hw
  rw [kernel_stages rfl rfl rfl hu hw, kernel_stages (s := s.withHost m v) rfl rfl rfl hu' hw']
  rfl

theorem runKernel_withHost (xs : List (Word × Word)) :
    (s.withHost m v).runKernel xs = ((s.runKernel xs).1.withHost m v, (s.runKernel xs).2) := by
  induction xs generalizing s with
  | nil => rfl
  | cons x xs ih => simp only [State.runKernel, kernel_withHost, ih]

/-- A run over the same inputs leaves the same but for the host's side. -/
theorem runBlock_withHost {n : Nat} (hleft : (s.withHost m v).inputLeft n = s.inputLeft n)
    (hright : (s.withHost m v).inputRight n = s.inputRight n) :
    (s.withHost m v).runBlock n = ((s.runBlock n).1.withHost m v, (s.runBlock n).2) := by
  rw [State.runBlock, hleft, hright]
  exact runKernel_withHost { s with freeCount := s.freeCount + 2 } m v _

end withHost

/-! ### A write of ARG -/

theorem runBlock_withArg (s : State) (n : Nat) (v : Word) :
    ({ s with arg := v } : State).runBlock n = ({ (s.runBlock n).1 with arg := v }, (s.runBlock n).2) := by
  have hstate : (s.runBlock n).1.withHost s.samples v = { (s.runBlock n).1 with arg := v } := by
    rw [runBlock_eq]
    rfl
  rw [← hstate]
  exact runBlock_withHost s s.samples v rfl rfl

theorem writeBlock_withArg (s : State) (c : Channel) (k : Nat) (ys : List Word) (v : Word) :
    ({ s with arg := v } : State).writeBlock c k ys = { s.writeBlock c k ys with arg := v } := by
  induction ys generalizing s k with
  | nil => rfl
  | cons y ys ih => exact ih (s.setSample c k y) (k + 1)

theorem processBlock_withArg (s : State) (n : Nat) (v : Word) :
    ({ s with arg := v } : State).processBlock n = { s.processBlock n with arg := v } := by
  have hleft : ({ s with arg := v } : State).outputLeft n = s.outputLeft n := by
    rw [State.outputLeft, runBlock_withArg, State.outputLeft]
  have hright : ({ s with arg := v } : State).outputRight n = s.outputRight n := by
    rw [State.outputRight, hleft, runBlock_withArg, State.outputRight]
  rw [State.processBlock, hleft, hright, runBlock_withArg]
  exact (congrArg (State.writeBlock · .right 0 (s.outputRight n)) (writeBlock_withArg _ .left 0 _ v)).trans
    (writeBlock_withArg _ .right 0 _ v)

/-- Settles O9: no command reads ARG, since its operand is PENDING's; for PROCESS that is `processBlock_withArg`. -/
theorem runningCommandIgnoresNewArg : Obligations.RunningCommandIgnoresNewArg := by
  intro i s v
  cases i with
  | nop | setWet | setDry | setMaster | setCrush | setChannels => rfl
  | init =>
    by_cases hrate : rateWord s.pending.arg
    · rcases Nat.lt_or_ge Config.bufCap (bufferLength s.pending.arg) with hcap | hcap
      · rw [exec_init_bufCap hrate hcap]
        exact exec_init_bufCap (s := { s with arg := v }) hrate hcap
      · rw [exec_init_accepts hrate hcap]
        exact exec_init_accepts (s := { s with arg := v }) hrate hcap
    · rw [exec_init_badRate hrate]
      exact exec_init_badRate (s := { s with arg := v }) hrate
  | setPreset imm =>
    by_cases hignored : 9 < imm ∨ imm = s.preset.val
    · rw [exec_setPreset_ignored hignored]
      exact exec_setPreset_ignored (s := { s with arg := v }) hignored
    · push Not at hignored
      obtain ⟨i, rfl⟩ : ∃ i : Fin 10, i.val = imm := ⟨⟨imm, by omega⟩, rfl⟩
      have hother := Fin.ne_of_val_ne hignored.2
      rw [exec_setPreset_switches i hother, exec_setPreset_switches (s := { s with arg := v }) i hother]
      unfold State.switchPreset
      split_ifs <;> rfl
  | process n =>
    rcases Bool.eq_false_or_eq_true s.ready with hready | hready
    · rcases Nat.lt_or_ge Config.blockMax n with hn | hn
      · rw [exec_process_blockLen hready hn]
        exact exec_process_blockLen (s := { s with arg := v }) hready hn
      · rw [exec_process_block hready hn, exec_process_block (s := { s with arg := v }) hready hn, processBlock_withArg]
        rfl
    · rw [exec_process_notInit hready]
      exact exec_process_notInit (s := { s with arg := v }) hready

/-! ### The right block in mono -/

/-- Two memories with the same bytes below SR hold the same left block. -/
theorem readBlock_left_withSamples {s : State} {m : Memory} {n : Nat} (hn : n ≤ 8192)
    (h : ∀ a, a < sampleOffset .right 0 → m.byte a = s.samples.byte a) :
    ({ s with samples := m } : State).readBlock .left n = s.readBlock .left n := by
  refine List.map_congr_left fun j hj => Memory.word_congr fun x _ hx => h x ?_
  have hj' := List.mem_range.mp hj
  simp only [sampleOffset, Channel.base, Config.slBase, Config.srBase] at hx ⊢
  omega

theorem inputs_mono_withSamples {s : State} {m : Memory} {n : Nat} (hmono : s.mono = true) (hn : n ≤ 8192)
    (h : ∀ a, a < sampleOffset .right 0 → m.byte a = s.samples.byte a) :
    ({ s with samples := m } : State).inputLeft n = s.inputLeft n ∧
      ({ s with samples := m } : State).inputRight n = s.inputRight n := by
  have hleft : ({ s with samples := m } : State).inputLeft n = s.inputLeft n := by
    rw [State.inputLeft, readBlock_left_withSamples hn h, State.inputLeft]
  refine ⟨hleft, ?_⟩
  rw [State.inputRight, hleft, State.inputRight, if_pos hmono, if_pos hmono]

/-- Settles O22: the inputs are the same, so the runs differ in the sample memories alone (`runKernel_withHost`), and both
blocks are written with the same outputs. -/
theorem monoDoesNotReadTheRightBlock : Obligations.MonoDoesNotReadTheRightBlock := by
  intro n s m hready hmono hn hbytes
  obtain ⟨hleft, hright⟩ := inputs_mono_withSamples hmono hn hbytes
  have hrun : ({ s with samples := m } : State).runBlock n = ({ (s.runBlock n).1 with samples := m }, (s.runBlock n).2) := by
    have hstate : (s.runBlock n).1.withHost m s.arg = { (s.runBlock n).1 with samples := m } := by
      rw [runBlock_eq]
      rfl
    rw [← hstate]
    exact runBlock_withHost s m s.arg hleft hright
  refine ⟨_, _, exec_process_block hready hn, exec_process_block (s := { s with samples := m }) hready hn, ?_, fun k hk => ?_⟩
  · have hstate := processBlock_eq { s with samples := m } n
    rw [hrun] at hstate
    rw [hstate, processBlock_eq s n]
    rfl
  · obtain ⟨y, hy⟩ : ∃ y, (s.runBlock n).2[k]? = some y :=
      ⟨_, List.getElem?_eq_getElem (by rwa [runBlock_outputs_length])⟩
    obtain ⟨hl, hr⟩ := samples_processBlock hn hy
    obtain ⟨hl', hr'⟩ := samples_processBlock (s := { s with samples := m }) hn (by rw [hrun]; exact hy)
    exact ⟨hl'.trans hl.symm, hr'.trans hr.symm⟩

end Sys2Proof.Machine
end

section
/-! PROOFS. Two runs of the kernel side by side: a simulation that relates the words at the same distance from the cursor,
over any relation of words that the operations respect. -/

namespace Sys2Proof.Machine

/-! ### Relations of words -/

/-- A relation of words that addition, subtraction and multiplication respect, where the epochs of the two runs' tags are
related by `T` and their sites are the same. -/
structure OpsRespect (T : Nat → Nat → Prop) (R : Word → Word → Prop) : Prop where
  refl : ∀ x, R x x
  next : ∀ {e e'}, T e e' → T (e + 1) (e' + 1)
  add : ∀ {e e'}, T e e' → ∀ k {x x' y y'}, R x x' → R y y' → R (f32Add ⟨e, k⟩ x y) (f32Add ⟨e', k⟩ x' y')
  sub : ∀ {e e'}, T e e' → ∀ k {x x' y y'}, R x x' → R y y' → R (f32Sub ⟨e, k⟩ x y) (f32Sub ⟨e', k⟩ x' y')
  mul : ∀ {e e'}, T e e' → ∀ k {x x' y y'}, R x x' → R y y' → R (f32Mul ⟨e, k⟩ x y) (f32Mul ⟨e', k⟩ x' y')

/-- The same words, under the same tags. -/
theorem opsRespect_eq : OpsRespect Eq Eq where
  refl _ := rfl
  next h := h ▸ rfl
  add h _ _ _ _ _ hx hy := by rw [h, hx, hy]
  sub h _ _ _ _ _ hx hy := by rw [h, hx, hy]
  mul h _ _ _ _ _ hx hy := by rw [h, hx, hy]

theorem sameUpToNaN_refl (x : Word) : sameUpToNaN x x := .inl rfl

/-- An operation that gives NAN_VALUE for every NaN operand, and uses its tag for NAN_VALUE alone (R11). -/
structure TagsNaNsAlone (op : NanTag → FloatVal → FloatVal → Nat) : Prop where
  nan_left : ∀ t b, op t .nan b = binary32.nanPattern t
  nan_right : ∀ t a, op t a .nan = binary32.nanPattern t
  tag : ∀ t t' a b, op t a b = op t' a b ∨ op t a b = binary32.nanPattern t ∧ op t' a b = binary32.nanPattern t'

/-- Such an operation of the same words up to NaN payloads gives the same word up to NaN payloads, whatever the tags. -/
theorem TagsNaNsAlone.sameUpToNaN {op : NanTag → FloatVal → FloatVal → Nat} (hop : TagsNaNsAlone op) (t t' : NanTag)
    {x x' y y' : Word} (hx : sameUpToNaN x x') (hy : sameUpToNaN y y') :
    Machine.sameUpToNaN (BitVec.ofNat 32 (op t (f32Val x) (f32Val y))) (BitVec.ofNat 32 (op t' (f32Val x') (f32Val y'))) := by
  have hnan {p p' : Nat} (hp : p = binary32.nanPattern t) (hp' : p' = binary32.nanPattern t') :
      Machine.sameUpToNaN (BitVec.ofNat 32 p) (BitVec.ofNat 32 p') :=
    .inr ⟨hp ▸ f32Val_nanPattern t, hp' ▸ f32Val_nanPattern t'⟩
  rcases hx with rfl | ⟨hx, hx'⟩
  · rcases hy with rfl | ⟨hy, hy'⟩
    · rcases hop.tag t t' (f32Val x) (f32Val y) with heq | ⟨hp, hp'⟩
      · rw [heq]; exact sameUpToNaN_refl _
      · exact hnan hp hp'
    · exact hnan (hy ▸ hop.nan_right t _) (hy' ▸ hop.nan_right t' _)
  · exact hnan (hx ▸ hop.nan_left t _) (hx' ▸ hop.nan_left t' _)

theorem tagsNaNsAlone_add : TagsNaNsAlone binary32.add where
  nan_left _ _ := rfl
  nan_right _ a := by cases a <;> rfl
  tag t t' a b := by
    cases a <;> cases b
    case inf.inf a b => simp only [FloatFormat.add]; split <;> simp
    all_goals simp [FloatFormat.add]

theorem tagsNaNsAlone_sub : TagsNaNsAlone binary32.sub where
  nan_left _ _ := rfl
  nan_right t a := tagsNaNsAlone_add.nan_right t a
  tag t t' a b := tagsNaNsAlone_add.tag t t' a (FloatFormat.neg b)

theorem tagsNaNsAlone_mul : TagsNaNsAlone binary32.mul where
  nan_left _ _ := rfl
  nan_right _ a := by cases a <;> rfl
  tag t t' a b := by
    cases a <;> cases b
    case inf.fin a b n => simp only [FloatFormat.mul]; split <;> simp
    case fin.inf a m b => simp only [FloatFormat.mul]; split <;> simp
    all_goals simp [FloatFormat.mul]

/-- The same words up to NaN payloads, under any tags (93_implementation_defined.md I4). -/
theorem opsRespect_sameUpToNaN : OpsRespect (fun _ _ => True) sameUpToNaN where
  refl := sameUpToNaN_refl
  next _ := trivial
  add _ _ _ _ _ _ hx hy := by unfold f32Add; exact tagsNaNsAlone_add.sameUpToNaN _ _ hx hy
  sub _ _ _ _ _ _ hx hy := by unfold f32Sub; exact tagsNaNsAlone_sub.sameUpToNaN _ _ hx hy
  mul _ _ _ _ _ _ hx hy := by unfold f32Mul; exact tagsNaNsAlone_mul.sameUpToNaN _ _ hx hy

/-! ### Words by their distance from the cursor -/

/-- The word of the buffer at distance `z` from the cursor. -/
def State.wordAt (s : State) (z : Int) : Nat := ((z + s.cursor.toNat) % (s.buflen.toNat : Int)).toNat

theorem tapIndex_eq_wordAt (s : State) (offset extra : Nat) :
    tapIndex s.buflen.toNat s.cursor.toNat offset extra = s.wordAt (offset - extra) := by
  rw [tapIndex, State.wordAt, sub_add_eq_add_sub]

/-- The two runs. The cursors are the same, or the buffer is not empty, so that it wraps around either cursor. -/
structure KernelSim (T : Nat → Nat → Prop) (R : Word → Word → Prop) (s u : State) : Prop where
  buflen : u.buflen = s.buflen
  derived : u.derived = s.derived
  wet : u.wet = s.wet
  dry : u.dry = s.dry
  master : u.master = s.master
  epoch : T s.freeCount u.freeCount
  aligned : u.cursor = s.cursor ∨ 0 < s.buflen.toNat
  words : ∀ z, R (s.delayWord (s.wordAt z)) (u.delayWord (u.wordAt z))

section
variable {T : Nat → Nat → Prop} {R : Word → Word → Prop} {s u : State}

/-- Two distances name the same word of one run when they name the same word of the other. -/
theorem KernelSim.wordAt_eq_iff (h : KernelSim T R s u) (y z : Int) :
    u.wordAt y = u.wordAt z ↔ s.wordAt y = s.wordAt z := by
  rcases h.aligned with hcursor | hlen
  · rw [State.wordAt, State.wordAt, State.wordAt, State.wordAt, h.buflen, hcursor]
  · have hwraps (v : State) (hv : v.buflen = s.buflen) :
        v.wordAt y = v.wordAt z ↔ (y - z) % (s.buflen.toNat : Int) = 0 := by
      have hy := Int.emod_nonneg (y + v.cursor.toNat) (b := (s.buflen.toNat : Int)) (by omega)
      have hz := Int.emod_nonneg (z + v.cursor.toNat) (b := (s.buflen.toNat : Int)) (by omega)
      have hsub : y + v.cursor.toNat - (z + v.cursor.toNat) = y - z := by ring
      rw [State.wordAt, State.wordAt, hv, ← hsub, ← Int.emod_eq_emod_iff_emod_sub_eq_zero]
      omega
    rw [hwraps u h.buflen, hwraps s rfl]

/-- Related stores at the same distance keep the simulation. -/
theorem KernelSim.setDelayWord (h : KernelSim T R s u) (z : Int) {v v' : Word} (hv : R v v') :
    KernelSim T R (s.setDelayWord (s.wordAt z) v) (u.setDelayWord (u.wordAt z) v') where
  buflen := h.buflen
  derived := h.derived
  wet := h.wet
  dry := h.dry
  master := h.master
  epoch := h.epoch
  aligned := h.aligned
  words y := by
    change R ((s.setDelayWord (s.wordAt z) v).delayWord (s.wordAt y)) ((u.setDelayWord (u.wordAt z) v').delayWord (u.wordAt y))
    by_cases hyz : s.wordAt y = s.wordAt z
    · rw [hyz, (h.wordAt_eq_iff y z).mpr hyz, delayWord_setDelayWord_same, delayWord_setDelayWord_same]
      exact hv
    · rw [delayWord_setDelayWord_other s hyz, delayWord_setDelayWord_other u (mt (h.wordAt_eq_iff y z).mp hyz)]
      exact h.words y

theorem KernelSim.storeA (h : KernelSim T R s u) (o : Word) {v v' : Word} (hv : R v v') :
    KernelSim T R (s.setDelayWord (s.tapA o) v) (u.setDelayWord (u.tapA o) v') := by
  rw [State.tapA, State.tapA, tapIndex_eq_wordAt, tapIndex_eq_wordAt]
  exact h.setDelayWord _ hv

theorem KernelSim.tap (h : KernelSim T R s u) (offset extra : Nat) :
    R (s.delayWord (tapIndex s.buflen.toNat s.cursor.toNat offset extra))
      (u.delayWord (tapIndex u.buflen.toNat u.cursor.toNat offset extra)) := by
  rw [tapIndex_eq_wordAt, tapIndex_eq_wordAt]
  exact h.words _

theorem KernelSim.readA (h : KernelSim T R s u) (o : Word) : R (s.delayWord (s.tapA o)) (u.delayWord (u.tapA o)) :=
  h.tap _ _

theorem KernelSim.readA1 (h : KernelSim T R s u) (o : Word) : R (s.delayWord (s.tapA1 o)) (u.delayWord (u.tapA1 o)) :=
  h.tap _ _

theorem KernelSim.readAd (h : KernelSim T R s u) (o d : Word) :
    R (s.delayWord (s.tapAd o d)) (u.delayWord (u.tapAd o d)) :=
  h.tap _ _

variable (hops : OpsRespect T R) {e e' : Nat} (hT : T e e')
include hops hT

/-! ### The kernel, stage by stage -/

theorem OpsRespect.reflectionFilter (k : Nat) (gWall gIIR : Word) {inp inp' w w' prev prev' : Word} (hinp : R inp inp')
    (hw : R w w') (hprev : R prev prev') :
    R (Machine.reflectionFilter ⟨e, k⟩ gWall gIIR inp w prev) (Machine.reflectionFilter ⟨e', k⟩ gWall gIIR inp' w' prev') :=
  hops.add hT _ (hops.mul hT _ (hops.sub hT _ (hops.add hT _ hinp (hops.mul hT _ hw (hops.refl gWall))) hprev)
    (hops.refl gIIR)) hprev

theorem KernelSim.reflect (h : KernelSim T R s u) (k : Nat) {inp inp' : Word} (hinp : R inp inp') (wall tap : Word) :
    KernelSim T R (s.reflect ⟨e, k⟩ inp wall tap) (u.reflect ⟨e', k⟩ inp' wall tap) := by
  rw [State.reflect, State.reflect, h.derived]
  exact h.storeA tap (hops.reflectionFilter hT k _ _ hinp (h.readA wall) (h.readA1 tap))

theorem KernelSim.reflections (h : KernelSim T R s u) {lin lin' rin rin' : Word} (hl : R lin lin') (hr : R rin rin') :
    KernelSim T R (s.reflections e lin rin) (u.reflections e' lin' rin') := by
  rw [reflections_eq (s := s) rfl rfl rfl, reflections_eq (s := u) rfl rfl rfl, h.derived]
  exact (((h.reflect hops hT _ hl _ _).reflect hops hT _ hr _ _).reflect hops hT _ hl _ _).reflect hops hT _ hr _ _

theorem KernelSim.combSum (h : KernelSim T R s u) (k : Nat) (o1 o2 o3 o4 : Word) :
    R (s.combSum ⟨e, k⟩ o1 o2 o3 o4) (u.combSum ⟨e', k⟩ o1 o2 o3 o4) := by
  have hterm (k : Nat) (g o : Word) : R (f32Mul ⟨e, k⟩ g (s.delayWord (s.tapA o))) (f32Mul ⟨e', k⟩ g (u.delayWord (u.tapA o))) :=
    hops.mul hT _ (hops.refl g) (h.readA o)
  rw [State.combSum, State.combSum, h.derived]
  exact hops.add hT _ (hops.add hT _ (hops.add hT _ (hterm _ _ _) (hterm _ _ _)) (hterm _ _ _)) (hterm _ _ _)

theorem KernelSim.allPass (h : KernelSim T R s u) (k : Nat) {x x' : Word} (hx : R x x') (mo d g : Word) :
    KernelSim T R (s.allPass ⟨e, k⟩ x mo d g).1 (u.allPass ⟨e', k⟩ x' mo d g).1 ∧
      R (s.allPass ⟨e, k⟩ x mo d g).2 (u.allPass ⟨e', k⟩ x' mo d g).2 := by
  have hread : R (s.delayWord (s.tapAd mo d)) (u.delayWord (u.tapAd mo d)) := h.readAd mo d
  have hstored : R (allPassStored ⟨e, k⟩ x g (s.delayWord (s.tapAd mo d)))
      (allPassStored ⟨e', k⟩ x' g (u.delayWord (u.tapAd mo d))) :=
    hops.sub hT _ hx (hops.mul hT _ (hops.refl g) hread)
  exact ⟨h.storeA mo hstored, hops.add hT _ (hops.mul hT _ hstored (hops.refl g)) hread⟩

theorem KernelSim.allPasses (h : KernelSim T R s u) {lo lo' ro ro' : Word} (hl : R lo lo') (hr : R ro ro') :
    KernelSim T R (s.allPasses e lo ro).1 (u.allPasses e' lo' ro').1 ∧
      R (s.allPasses e lo ro).2.1 (u.allPasses e' lo' ro').2.1 ∧
        R (s.allPasses e lo ro).2.2 (u.allPasses e' lo' ro').2.2 := by
  rw [allPasses_eq (s := s) rfl rfl rfl rfl, allPasses_eq (s := u) rfl rfl rfl rfl, h.derived]
  obtain ⟨h1, hl1⟩ := h.allPass hops hT 36 hl s.derived.S_mLAPF1 s.derived.S_dAPF1 s.derived.g_vAPF1
  obtain ⟨h2, hr1⟩ := h1.allPass hops hT 40 hr s.derived.S_mRAPF1 s.derived.S_dAPF1 s.derived.g_vAPF1
  obtain ⟨h3, hl2⟩ := h2.allPass hops hT 44 hl1 s.derived.S_mLAPF2 s.derived.S_dAPF2 s.derived.g_vAPF2
  obtain ⟨h4, hr2⟩ := h3.allPass hops hT 48 hr1 s.derived.S_mRAPF2 s.derived.S_dAPF2 s.derived.g_vAPF2
  exact ⟨h4, hl2, hr2⟩

theorem KernelSim.mix (h : KernelSim T R s u) (k : Nat) {out out' x x' : Word} (hout : R out out') (hx : R x x') :
    R (s.mix ⟨e, k⟩ out x) (u.mix ⟨e', k⟩ out' x') := by
  rw [State.mix, State.mix, h.wet, h.dry, h.master]
  exact hops.mul hT _ (hops.add hT _ (hops.mul hT _ hout (hops.refl _)) (hops.mul hT _ hx (hops.refl _))) (hops.refl _)

end

section
variable {T : Nat → Nat → Prop} {R : Word → Word → Prop} {s u : State}

/-- After the cursor's advance, the word at a distance is the one that was at a shifted distance, the shift of a buffer
that is not empty being 1. -/
theorem wordAt_advanceCursor (s : State) (z : Int) :
    s.advanceCursor.wordAt z = s.wordAt (z + s.advanceCursor.cursor.toNat - s.cursor.toNat) := by
  rw [State.wordAt, State.wordAt, advanceCursor_buflen]
  congr 2
  ring

theorem wordAt_advanceCursor_of_nonempty (h : 0 < s.buflen.toNat) (z : Int) :
    s.advanceCursor.wordAt z = s.wordAt (z + 1) := by
  have hlen := s.buflen.isLt
  have hlt := Nat.mod_lt (1 + s.cursor.toNat) h
  have hcursor : s.advanceCursor.cursor.toNat = (1 + s.cursor.toNat) % s.buflen.toNat := by
    rw [advanceCursor_cursor, tapIndex_zero, BitVec.toNat_ofNat, Nat.mod_eq_of_lt (lt_trans hlt hlen)]
  rw [State.wordAt, State.wordAt, advanceCursor_buflen, hcursor, Int.natCast_mod, Int.add_emod_emod, Nat.cast_add,
    Nat.cast_one, Int.add_assoc]

theorem KernelSim.advance (h : KernelSim T R s u) (hops : OpsRespect T R) :
    KernelSim T R s.advanceCursor.nextEpoch u.advanceCursor.nextEpoch where
  buflen := h.buflen
  derived := h.derived
  wet := h.wet
  dry := h.dry
  master := h.master
  epoch := hops.next h.epoch
  aligned := h.aligned.imp (fun hcursor => by
    rw [nextEpoch_cursor, nextEpoch_cursor, advanceCursor_cursor, advanceCursor_cursor, h.buflen, hcursor]) id
  words z := by
    change R (s.delayWord (s.advanceCursor.wordAt z)) (u.delayWord (u.advanceCursor.wordAt z))
    rcases h.aligned with hcursor | hlen
    · have hnext : u.advanceCursor.cursor = s.advanceCursor.cursor := by
        rw [advanceCursor_cursor, advanceCursor_cursor, h.buflen, hcursor]
      rw [wordAt_advanceCursor, wordAt_advanceCursor u, hnext, hcursor]
      exact h.words _
    · rw [wordAt_advanceCursor_of_nonempty hlen, wordAt_advanceCursor_of_nonempty (h.buflen ▸ hlen)]
      exact h.words _

/-- One sample of related inputs keeps the simulation and gives related outputs. -/
theorem KernelSim.kernel (h : KernelSim T R s u) (hops : OpsRespect T R) (xL xR : Word) :
    KernelSim T R (s.kernel xL xR).1 (u.kernel xL xR).1 ∧
      R (s.kernel xL xR).2.1 (u.kernel xL xR).2.1 ∧ R (s.kernel xL xR).2.2 (u.kernel xL xR).2.2 := by
  have hT := h.epoch
  have hinput (k : Nat) (x g : Word) : R (f32Mul ⟨s.freeCount, k⟩ x g) (f32Mul ⟨u.freeCount, k⟩ x g) :=
    hops.mul hT k (hops.refl x) (hops.refl g)
  obtain ⟨p, hp⟩ : ∃ p, p = s.reflections s.freeCount (f32Mul ⟨s.freeCount, 0⟩ xL s.derived.g_vLIN)
    (f32Mul ⟨s.freeCount, 1⟩ xR s.derived.g_vRIN) := ⟨_, rfl⟩
  obtain ⟨q, hq⟩ : ∃ q, q = u.reflections u.freeCount (f32Mul ⟨u.freeCount, 0⟩ xL u.derived.g_vLIN)
    (f32Mul ⟨u.freeCount, 1⟩ xR u.derived.g_vRIN) := ⟨_, rfl⟩
  have hpq : KernelSim T R p q := by
    rw [hp, hq, h.derived]
    exact h.reflections hops hT (hinput 0 xL _) (hinput 1 xR _)
  have hcombL : R (p.combLeft s.freeCount) (q.combLeft u.freeCount) := by
    rw [State.combLeft, State.combLeft, hpq.derived]
    exact hpq.combSum hops hT _ _ _ _ _
  have hcombR : R (p.combRight s.freeCount) (q.combRight u.freeCount) := by
    rw [State.combRight, State.combRight, hpq.derived]
    exact hpq.combSum hops hT _ _ _ _ _
  obtain ⟨hstages, hl, hr⟩ := hpq.allPasses hops hT hcombL hcombR
  rw [kernel_stages rfl rfl rfl hp rfl, kernel_stages rfl rfl rfl hq rfl]
  exact ⟨hstages.advance hops, h.mix hops hT _ hl (hops.refl _), h.mix hops hT _ hr (hops.refl _)⟩

/-- A run over the same samples keeps the simulation and gives related outputs. -/
theorem KernelSim.runKernel (h : KernelSim T R s u) (hops : OpsRespect T R) (xs : List (Word × Word)) :
    KernelSim T R (s.runKernel xs).1 (u.runKernel xs).1 ∧
      List.Forall₂ (fun y y' => R y.1 y'.1 ∧ R y.2 y'.2) (s.runKernel xs).2 (u.runKernel xs).2 := by
  induction xs generalizing s u with
  | nil => exact ⟨h, .nil⟩
  | cons x xs ih =>
    obtain ⟨hkernel, hout⟩ := h.kernel hops x.1 x.2
    obtain ⟨hrun, houts⟩ := ih hkernel
    exact ⟨hrun, .cons hout houts⟩

/-- The cursor's course is that of its start and the buffer's length. -/
theorem runKernel_cursor_congr (hlen : u.buflen = s.buflen) (hcursor : u.cursor = s.cursor) (xs : List (Word × Word)) :
    (u.runKernel xs).1.cursor = (s.runKernel xs).1.cursor := by
  induction xs generalizing s u with
  | nil => exact hcursor
  | cons x xs ih =>
    refine ih ?_ ?_
    · rw [kernel_eq, kernel_eq s]; exact hlen
    · rw [kernel_eq, kernel_eq s, hlen, hcursor]

end

end Sys2Proof.Machine
end

section
/-! PROOFS. What a PROCESS depends on: after INIT or a switch of presets on nothing that was before (41_control_commands.md
R152, R153), and without crush not on how a block is split (44_process.md R234): O23 and O30. -/

namespace Sys2Proof.Machine

/-! ### Simulated blocks -/

section
variable {T : Nat → Nat → Prop} {R : Word → Word → Prop} {s u : State}

theorem KernelSim.complete (h : KernelSim T R s u) : KernelSim T R s.complete u.complete :=
  ⟨h.buflen, h.derived, h.wet, h.dry, h.master, h.epoch, h.aligned, h.words⟩

theorem KernelSim.raiseError (h : KernelSim T R s u) (c : ErrCode) : KernelSim T R (s.raiseError c) (u.raiseError c) :=
  ⟨h.buflen, h.derived, h.wet, h.dry, h.master, h.epoch, h.aligned, h.words⟩

theorem KernelSim.withSamples (h : KernelSim T R s u) (m m' : Memory) :
    KernelSim T R { s with samples := m } { u with samples := m' } :=
  ⟨h.buflen, h.derived, h.wet, h.dry, h.master, h.epoch, h.aligned, h.words⟩

/-- With the same cursor, the words of the buffer are related one by one. -/
theorem KernelSim.delayWord (h : KernelSim T R s u) (hcursor : u.cursor = s.cursor) {k : Nat} (hk : k < s.buflen.toNat) :
    R (s.delayWord k) (u.delayWord k) := by
  have hword (v : State) (hlen : v.buflen = s.buflen) (hcur : v.cursor = s.cursor) :
      v.wordAt (k - s.cursor.toNat) = k := by
    rw [State.wordAt, hlen, hcur, Int.sub_add_cancel, Int.emod_eq_of_lt (by omega) (by omega), Int.toNat_natCast]
  have hrel := h.words (k - s.cursor.toNat)
  rwa [hword s rfl rfl, hword u h.buflen hcursor] at hrel

theorem KernelSim.runBlock (h : KernelSim T R s u) (hops : OpsRespect T R) {n : Nat}
    (hleft : u.inputLeft n = s.inputLeft n) (hright : u.inputRight n = s.inputRight n) :
    KernelSim T R (s.runBlock n).1 (u.runBlock n).1 ∧
      List.Forall₂ (fun y y' => R y.1 y'.1 ∧ R y.2 y'.2) (s.runBlock n).2 (u.runBlock n).2 := by
  have hstart : KernelSim T R { s with freeCount := s.freeCount + 2 } { u with freeCount := u.freeCount + 2 } :=
    ⟨h.buflen, h.derived, h.wet, h.dry, h.master, hops.next (hops.next h.epoch), h.aligned, h.words⟩
  rw [State.runBlock, State.runBlock, hleft, hright]
  exact hstart.runKernel hops _

end

/-- A PROCESS that raises no error leaves its run's state but for SL and SR. -/
theorem processBlock_eq_runBlock (s : State) (n : Nat) :
    s.processBlock n = { (s.runBlock n).1 with samples := (s.processBlock n).samples } := by
  rw [processBlock_eq, runBlock_eq]

theorem samples_writeBlock_congr {s u : State} (h : u.samples = s.samples) (c : Channel) (k : Nat) (ys : List Word) :
    (u.writeBlock c k ys).samples = (s.writeBlock c k ys).samples := by
  induction ys generalizing s u k with
  | nil => exact h
  | cons y ys ih => exact ih (by rw [setSample_samples, setSample_samples, h]) (k + 1)

/-- Two states that differ in B and CURSOR alone take the same inputs. -/
theorem inputs_congr {s u : State} (hframe : u = { s with delay := u.delay, cursor := u.cursor }) (n : Nat) :
    u.inputLeft n = s.inputLeft n ∧ u.inputRight n = s.inputRight n := by
  rw [hframe]
  exact ⟨rfl, rfl⟩

/-- Two states that differ in B and CURSOR alone, with the same words around their cursors, end a PROCESS so. -/
theorem processBlock_congr {s u : State} (h : KernelSim Eq Eq s u)
    (hframe : u = { s with delay := u.delay, cursor := u.cursor }) (n : Nat) :
    u.processBlock n =
        { s.processBlock n with delay := (u.processBlock n).delay, cursor := (u.processBlock n).cursor } ∧
      KernelSim Eq Eq (s.processBlock n) (u.processBlock n) := by
  obtain ⟨hleft, hright⟩ := inputs_congr hframe n
  obtain ⟨hrun, houts⟩ := h.runBlock opsRespect_eq hleft hright
  have houtputs : (u.runBlock n).2 = (s.runBlock n).2 := by
    have heq := houts.imp fun y y' hy => Prod.ext hy.1 hy.2
    rw [List.forall₂_eq_eq_eq] at heq
    exact heq.symm
  have hmono : u.mono = s.mono := by rw [hframe]
  have houtL : u.outputLeft n = s.outputLeft n := by rw [State.outputLeft, houtputs, State.outputLeft]
  have houtR : u.outputRight n = s.outputRight n := by
    rw [State.outputRight, houtL, houtputs, hmono, State.outputRight]
  have hsamples : (u.processBlock n).samples = (s.processBlock n).samples := by
    rw [State.processBlock, State.processBlock, houtL, houtR]
    refine samples_writeBlock_congr (samples_writeBlock_congr ?_ _ _ _) _ _ _
    rw [runBlock_eq, runBlock_eq s, hframe]
  constructor
  · have hu := processBlock_eq u n
    rw [hsamples, ← hrun.epoch] at hu
    generalize (u.runBlock n).1 = run at hu
    rw [hu, hframe, processBlock_eq s]
  · rw [processBlock_eq_runBlock, processBlock_eq_runBlock u]
    exact hrun.withSamples _ _

theorem processBlock_cursor_congr {s u : State} (hframe : u = { s with delay := u.delay, cursor := u.cursor })
    (hcursor : u.cursor = s.cursor) (n : Nat) : (u.processBlock n).cursor = (s.processBlock n).cursor := by
  obtain ⟨hleft, hright⟩ := inputs_congr hframe n
  have hlen : u.buflen = s.buflen := by rw [hframe]
  rw [processBlock_eq, processBlock_eq s, State.runBlock, State.runBlock, hleft, hright]
  exact runKernel_cursor_congr (s := { s with freeCount := s.freeCount + 2 })
    (u := { u with freeCount := u.freeCount + 2 }) hlen hcursor _

/-- The same of the command PROCESS, also where it raises BLOCK_LEN. -/
theorem exec_process_congr {s u : State} (h : KernelSim Eq Eq s u)
    (hframe : u = { s with delay := u.delay, cursor := u.cursor }) (hready : s.ready = true) (n : Nat) :
    ∃ t t', exec (.process n) s = .next t ∧ exec (.process n) u = .next t' ∧
      t' = { t with delay := t'.delay, cursor := t'.cursor } ∧ KernelSim Eq Eq t t' ∧
      (u.cursor = s.cursor → t'.cursor = t.cursor) := by
  have hready' : u.ready = true := by rw [hframe]; exact hready
  rcases Nat.lt_or_ge Config.blockMax n with hn | hn
  · refine ⟨_, _, exec_process_blockLen hready hn, exec_process_blockLen hready' hn, ?_, h.raiseError _, id⟩
    conv_lhs => rw [hframe]
    rfl
  · obtain ⟨hstate, hsim⟩ := processBlock_congr h hframe n
    refine ⟨_, _, exec_process_block hready hn, exec_process_block hready' hn, ?_, hsim.complete,
      fun hcursor => processBlock_cursor_congr hframe hcursor n⟩
    conv_lhs => rw [hstate]
    rfl

/-! ### A zeroed buffer -/

/-- Two states that differ in B and CURSOR alone, with zeroed buffers that are not empty. -/
theorem kernelSim_of_zeroed {s u : State} (hframe : u = { s with delay := u.delay, cursor := u.cursor })
    (hlen : 0 < s.buflen.toNat) (hs : s.bufferZero) (hu : u.bufferZero) : KernelSim Eq Eq s u := by
  have hbuflen : u.buflen = s.buflen := by rw [hframe]
  have hword (v : State) (hv : v.buflen = s.buflen) (hzero : v.bufferZero) (z : Int) : v.delayWord (v.wordAt z) = 0 := by
    have hlow := Int.emod_nonneg (z + v.cursor.toNat) (b := (s.buflen.toNat : Int)) (by omega)
    have hhigh := Int.emod_lt_of_pos (z + v.cursor.toNat) (b := (s.buflen.toNat : Int)) (by omega)
    refine hzero _ ?_
    rw [State.wordAt, hv]
    omega
  exact ⟨hbuflen, by rw [hframe], by rw [hframe], by rw [hframe], by rw [hframe], by rw [hframe], .inr hlen,
    fun z => (hword s rfl hs z).trans (hword u hbuflen hu z).symm⟩

theorem nextPow2_pos (n : Nat) : 0 < nextPow2 n := by
  unfold nextPow2
  split_ifs
  · exact Nat.one_pos
  · exact Nat.two_pow_pos _

theorem bufferLength_pos (r : Word) : 0 < bufferLength r := by
  unfold bufferLength
  exact nextPow2_pos _

/-- After a switch of presets in a ready state, a PROCESS from another B, DERIVED and CURSOR ends the same but for them. -/
theorem process_after_switch (s : State) (b : Memory) (d : Derived) (c : Word) (imm n : Nat) (hready : s.ready = true)
    (hlen : 0 < s.buflen.toNat) (himm : imm ≤ 9) (hother : imm ≠ s.preset.val) :
    ∃ t t' u u', exec (.setPreset imm) s = .next t ∧
      exec (.setPreset imm) { s with delay := b, derived := d, cursor := c } = .next t' ∧ t'.cursor = c ∧
      exec (.process n) t = .next u ∧ exec (.process n) t' = .next u' ∧
      u' = { u with delay := u'.delay, cursor := u'.cursor } ∧ KernelSim Eq Eq u u' ∧
      (c = s.cursor → u'.cursor = u.cursor) := by
  obtain ⟨i, rfl⟩ : ∃ i : Fin 10, i.val = imm := ⟨⟨imm, by omega⟩, rfl⟩
  have hne : i ≠ s.preset := Fin.ne_of_val_ne hother
  have hswitch := exec_setPreset_switches i hne
  have hswitch' := exec_setPreset_switches (s := { s with delay := b, derived := d, cursor := c }) i hne
  rw [switchPreset_of_ready i hready] at hswitch
  rw [switchPreset_of_ready (s := { s with delay := b, derived := d, cursor := c }) i hready] at hswitch'
  have hsim := kernelSim_of_zeroed
    (s := (State.loadPreset { s with preset := i } i).complete)
    (u := (State.loadPreset { s with delay := b, derived := d, cursor := c, preset := i } i).complete) rfl hlen
    (fun k hk => delayWord_loadPreset_below _ _ hk) (fun k hk => delayWord_loadPreset_below _ _ hk)
  obtain ⟨u, u', hu, hu', hframe, hend, hcursor⟩ := exec_process_congr hsim rfl hready n
  exact ⟨_, _, u, u', hswitch, hswitch', rfl, hu, hu', hframe, hend, hcursor⟩

/-- Settles O23: an INIT that succeeds and a switch of presets leave states that differ in B and CURSOR alone and whose
buffers are zeroed; a PROCESS runs the same from both. -/
theorem initResetsTheHistory : Obligations.InitResetsTheHistory := by
  refine ⟨fun s b c r l y d n hrate hcap => ?_, fun s b d imm n hready hlen himm hother => ?_,
    fun s b d c imm n hready hlen himm hother => ?_⟩
  · have hinit := exec_init_accepts hrate hcap
    have hinit' := exec_init_accepts (s := { s with delay := b, cursor := c, rate := r, buflen := l, ready := y, derived := d })
      hrate hcap
    have hlen : 0 < (s.initEngine s.pending.arg).complete.buflen.toNat :=
      (initEngine_buflen_toNat (s := s) hcap).symm ▸ bufferLength_pos s.pending.arg
    have hsim := kernelSim_of_zeroed (s := (s.initEngine s.pending.arg).complete)
      (u := (State.initEngine { s with delay := b, cursor := c, rate := r, buflen := l, ready := y, derived := d }
        s.pending.arg).complete) rfl hlen
      (fun k hk => delayWord_initEngine_below _ _ hk) (fun k hk => delayWord_initEngine_below _ _ hk)
    obtain ⟨u, u', hu, hu', hframe, hend, hcursor⟩ := exec_process_congr hsim rfl rfl n
    refine ⟨_, _, u, u', hinit, hinit', hu, hu', ?_, fun k hk => (hend.delayWord (hcursor rfl) hk).symm⟩
    rw [hcursor rfl] at hframe
    exact hframe
  · obtain ⟨t, t', u, u', ht, ht', -, hu, hu', hframe, hend, hcursor⟩ :=
      process_after_switch s b d s.cursor imm n hready hlen himm hother
    refine ⟨t, t', u, u', ht, ht', hu, hu', ?_, fun k hk => (hend.delayWord (hcursor rfl) hk).symm⟩
    rw [hcursor rfl] at hframe
    exact hframe
  · obtain ⟨t, t', u, u', ht, ht', hc, hu, hu', hframe, hend, -⟩ :=
      process_after_switch s b d c imm n hready hlen himm hother
    exact ⟨t, t', u, u', ht, ht', hc, hu, hu', hframe, fun o => (hend.readA o).symm⟩

/-! ### Splitting a block -/

theorem runKernel_append (s : State) (xs ys : List (Word × Word)) : s.runKernel (xs ++ ys) =
    (((s.runKernel xs).1.runKernel ys).1, (s.runKernel xs).2 ++ ((s.runKernel xs).1.runKernel ys).2) := by
  induction xs generalizing s with
  | nil => rfl
  | cons x xs ih => simp only [List.cons_append, State.runKernel, ih]

/-- The pair of samples that the kernel takes at an index, without crush (R232, R233). -/
def State.inputPair (s : State) (j : Nat) : Word × Word :=
  (s.sample .left j, if s.mono then s.sample .left j else s.sample .right j)

theorem inputs_eq_of_no_crush {s : State} (h : s.crush = 0) (n : Nat) :
    (s.inputLeft n).zip (s.inputRight n) = (List.range n).map s.inputPair := by
  rw [State.inputRight, State.inputLeft, h, crushBlock_zero, crushBlock_zero, State.readBlock, State.readBlock]
  unfold State.inputPair
  cases s.mono <;> simp [List.zip_map']

/-- Without crush a run over a block is a run over its first part, then over the rest. -/
theorem runBlock_add {s : State} (h : s.crush = 0) (n1 n2 : Nat) : s.runBlock (n1 + n2) =
    (((s.runBlock n1).1.runKernel ((List.range n2).map fun j => s.inputPair (n1 + j))).1,
      (s.runBlock n1).2 ++ ((s.runBlock n1).1.runKernel ((List.range n2).map fun j => s.inputPair (n1 + j))).2) := by
  rw [State.runBlock, inputs_eq_of_no_crush h, List.range_add, List.map_append, List.map_map, runKernel_append,
    State.runBlock, inputs_eq_of_no_crush h]
  rfl

/-- The channel's word of an output pair: in mono the left one (R232, R233). -/
def Channel.output (c : Channel) (mono : Bool) (y : Word × Word) : Word :=
  match c with
  | .left => y.1
  | .right => if mono then y.1 else y.2

theorem sample_processBlock {s : State} {n j : Nat} {y : Word × Word} (c : Channel) (hn : n ≤ 8192)
    (hy : (s.runBlock n).2[j]? = some y) : (s.processBlock n).sample c j = c.output s.mono y := by
  obtain ⟨hl, hr⟩ := samples_processBlock hn hy
  cases c
  · exact hl
  · exact hr

theorem sameUpToNaN_output (c : Channel) (mono : Bool) {y z : Word × Word}
    (h : sameUpToNaN y.1 z.1 ∧ sameUpToNaN y.2 z.2) : sameUpToNaN (c.output mono y) (c.output mono z) := by
  cases c
  · exact h.1
  · cases mono
    · exact h.2
    · exact h.1

/-- The state in which the second part of a block is processed: what the first part's run leaves, with the second part's
samples loaded and other tags to come. -/
def State.secondPart (s : State) (n1 k : Nat) (m : Memory) : State :=
  { (s.processBlock n1).complete with samples := m, freeCount := k }

theorem secondPart_eq (s : State) (n1 k : Nat) (m : Memory) : s.secondPart n1 k m =
    { (s.runBlock n1).1 with samples := m, freeCount := k, busy := false, done := true } := by
  rw [State.secondPart, processBlock_eq_runBlock]
  rfl

theorem secondPart_registers (s : State) (n1 k : Nat) (m : Memory) : (s.secondPart n1 k m).ready = s.ready ∧
    (s.secondPart n1 k m).mono = s.mono ∧ (s.secondPart n1 k m).crush = s.crush ∧
      (s.secondPart n1 k m).buflen = s.buflen := by
  rw [secondPart_eq, runBlock_eq]
  exact ⟨rfl, rfl, rfl, rfl⟩

/-- The samples of the second part are the rest of the whole block's, loaded to the front. -/
def SecondPartLoaded (s : State) (n1 n2 : Nat) (m : Memory) : Prop :=
  ∀ c, ∀ j < n2, m.word (sampleOffset c j) = s.sample c (n1 + j)

/-- The second part's run goes along with the whole block's run from the first part's end, up to NaN payloads: the tags
alone are others. -/
theorem runBlock_secondPart {s : State} {n1 n2 : Nat} (k : Nat) {m : Memory} (hcrush : s.crush = 0)
    (hloaded : SecondPartLoaded s n1 n2 m) :
    KernelSim (fun _ _ => True) sameUpToNaN ((s.secondPart n1 k m).runBlock n2).1 (s.runBlock (n1 + n2)).1 ∧
      (s.runBlock (n1 + n2)).1.cursor = ((s.secondPart n1 k m).runBlock n2).1.cursor ∧
      List.Forall₂ (fun y z => sameUpToNaN y.1 z.1 ∧ sameUpToNaN y.2 z.2) ((s.secondPart n1 k m).runBlock n2).2
        ((s.runBlock (n1 + n2)).2.drop n1) := by
  obtain ⟨-, hmono, hcrush', -⟩ := secondPart_registers s n1 k m
  have hinputs : ((s.secondPart n1 k m).inputLeft n2).zip ((s.secondPart n1 k m).inputRight n2) =
      (List.range n2).map fun j => s.inputPair (n1 + j) := by
    rw [inputs_eq_of_no_crush (hcrush'.trans hcrush)]
    refine List.map_congr_left fun j hj => ?_
    have hsample (c : Channel) : (s.secondPart n1 k m).sample c j = s.sample c (n1 + j) :=
      hloaded c j (List.mem_range.mp hj)
    rw [State.inputPair, State.inputPair, hsample, hsample, hmono]
  have hdrop (ys : List (Word × Word)) : ((s.runBlock n1).2 ++ ys).drop n1 = ys :=
    List.drop_left' (runBlock_outputs_length s n1)
  rw [runBlock_add hcrush, hdrop, State.runBlock, hinputs]
  have hstart : KernelSim (fun _ _ => True) sameUpToNaN
      { s.secondPart n1 k m with freeCount := (s.secondPart n1 k m).freeCount + 2 } (s.runBlock n1).1 := by
    rw [secondPart_eq]
    exact ⟨rfl, rfl, rfl, rfl, rfl, trivial, .inl rfl, fun z => sameUpToNaN_refl _⟩
  obtain ⟨hend, houts⟩ := hstart.runKernel opsRespect_sameUpToNaN ((List.range n2).map fun j => s.inputPair (n1 + j))
  exact ⟨hend, runKernel_cursor_congr hstart.buflen (by rw [secondPart_eq]) _, houts⟩

/-- Settles O30: the run over the whole block goes on from the first part's state (`runBlock_add`), and the second PROCESS
goes along with it (`runBlock_secondPart`). -/
theorem processSplitsAcrossBlocks : Obligations.ProcessSplitsAcrossBlocks := by
  intro s n1 n2 k m hready hcrush hn hloaded
  obtain ⟨hready', hmono, -, hlen⟩ := secondPart_registers s n1 k m
  obtain ⟨hsim, hcursor, houts⟩ := runBlock_secondPart k hcrush hloaded
  refine ⟨(s.processBlock (n1 + n2)).complete, (s.processBlock n1).complete, ((s.secondPart n1 k m).processBlock n2).complete,
    exec_process_block hready hn, exec_process_block hready ((Nat.le_add_right n1 n2).trans hn),
    exec_process_block (hready'.trans hready) ((Nat.le_add_left n2 n1).trans hn), ?cursor, fun i hi => ?buffer,
    fun c j hj => ?first, fun c j hj => ?second⟩
  case cursor =>
    change ((s.secondPart n1 k m).processBlock n2).cursor = (s.processBlock (n1 + n2)).cursor
    rw [processBlock_eq, processBlock_eq s]
    exact hcursor.symm
  case buffer =>
    change i < (s.processBlock (n1 + n2)).buflen.toNat at hi
    change sameUpToNaN (((s.secondPart n1 k m).processBlock n2).delayWord i) ((s.processBlock (n1 + n2)).delayWord i)
    rw [processBlock_eq] at hi
    rw [processBlock_eq_runBlock, processBlock_eq_runBlock s]
    refine hsim.delayWord hcursor ?_
    rw [runBlock_eq]
    exact hlen ▸ hi
  case first =>
    obtain ⟨y, hy⟩ : ∃ y, (s.runBlock n1).2[j]? = some y := ⟨_, List.getElem?_eq_getElem (by rwa [runBlock_outputs_length])⟩
    have hy' : (s.runBlock (n1 + n2)).2[j]? = some y := by
      rw [runBlock_add hcrush, List.getElem?_append_left (by rwa [runBlock_outputs_length]), hy]
    have hfirst : (s.processBlock n1).complete.sample c j = c.output s.mono y := sample_processBlock c (by omega) hy
    have hwhole : (s.processBlock (n1 + n2)).complete.sample c j = c.output s.mono y := sample_processBlock c hn hy'
    rw [hfirst, hwhole]
    exact sameUpToNaN_refl _
  case second =>
    obtain ⟨hlength, hrelated⟩ := List.forall₂_iff_get.mp houts
    have hy : j < ((s.secondPart n1 k m).runBlock n2).2.length := by rwa [runBlock_outputs_length]
    have hz : j < ((s.runBlock (n1 + n2)).2.drop n1).length := hlength ▸ hy
    have hz' : (s.runBlock (n1 + n2)).2[n1 + j]? = some (((s.runBlock (n1 + n2)).2.drop n1).get ⟨j, hz⟩) := by
      rw [← List.getElem?_drop, List.getElem?_eq_getElem hz, List.get_eq_getElem]
    have hpart : ((s.secondPart n1 k m).processBlock n2).complete.sample c j = c.output (s.secondPart n1 k m).mono _ :=
      sample_processBlock c (by omega) (List.getElem?_eq_getElem hy)
    have hwhole : (s.processBlock (n1 + n2)).complete.sample c (n1 + j) = c.output s.mono _ :=
      sample_processBlock c hn hz'
    rw [hpart, hwhole, hmono]
    exact sameUpToNaN_output c _ (hrelated j hy hz)

end Sys2Proof.Machine
end

section
/-! PROOFS. The words of the status and control registers (10_state.md R32 to R39, 60_exceptions.md R258) and the host's
accesses (20_memory.md R71 to R83, 70_reset_and_hazards.md R286): O6, O45, O46, O48, O49, O50, O51, O52, O54. -/

namespace Sys2Proof.Machine

/-! ### Register words -/

/-- The number that STATUS reads as: four flags and the error code over them (R32 to R36). -/
theorem statusWord_toNat (s : State) : s.statusWord.toNat =
    bit s.busy + 2 * bit s.done + 4 * bit s.ready + 8 * bit s.err + 16 * s.errcode.code := by
  have hbusy := bit_le_one s.busy
  have hdone := bit_le_one s.done
  have hready := bit_le_one s.ready
  have herr := bit_le_one s.err
  have hcode := s.errcode.code_le_six
  rw [State.statusWord, BitVec.toNat_ofNat, Nat.mod_eq_of_lt (by omega)]

theorem decide_bit_eq_one (b : Bool) : decide (bit b = 1) = b := by
  cases b <;> rfl

/-- Bit `k` of a word is flag `b` when that many halvings leave `b` below an even number. -/
theorem getLsbD_eq_flag {w : Word} {k high : Nat} {b : Bool} (h : w.toNat / 2 ^ k = bit b + 2 * high) :
    w.getLsbD k = b := by
  have hbit := bit_le_one b
  have hmod : w.toNat / 2 ^ k % 2 = bit b := by omega
  rw [BitVec.getLsbD, Nat.testBit_eq_decide_div_mod_eq, hmod, decide_bit_eq_one]

theorem statusWord_flags (s : State) : s.statusWord.getLsbD 0 = s.busy ∧ s.statusWord.getLsbD 1 = s.done ∧
    s.statusWord.getLsbD 2 = s.ready ∧ s.statusWord.getLsbD 3 = s.err := by
  have hword := statusWord_toNat s
  have hbusy := bit_le_one s.busy
  have hdone := bit_le_one s.done
  have hready := bit_le_one s.ready
  refine ⟨getLsbD_eq_flag (high := bit s.done + 2 * bit s.ready + 4 * bit s.err + 8 * s.errcode.code) ?_,
    getLsbD_eq_flag (high := bit s.ready + 2 * bit s.err + 4 * s.errcode.code) ?_,
    getLsbD_eq_flag (high := bit s.err + 2 * s.errcode.code) ?_, getLsbD_eq_flag (high := s.errcode.code) ?_⟩ <;> omega

/-- Settles O45: the flags by `statusWord_flags`, the code as the word's second digit in base 16. -/
theorem statusLayout : Obligations.StatusLayout := by
  refine ⟨fun s => ?_, rfl, rfl, rfl, rfl, rfl, rfl, rfl⟩
  obtain ⟨hbusy, hdone, hready, herr⟩ := statusWord_flags s
  refine ⟨hbusy, hdone, hready, herr, ?_⟩
  have := bit_le_one s.busy
  have := bit_le_one s.done
  have := bit_le_one s.ready
  have := bit_le_one s.err
  have hcode := s.errcode.code_le_six
  rw [statusWord_toNat]
  omega

theorem ofNat_bit (b : Bool) : BitVec.ofNat 32 (bit b) = if b then 1 else 0 := by
  cases b <;> rfl

theorem ctrlWord_eq (s : State) : s.ctrlWord = if s.irqEn then 1 else 0 := ofNat_bit s.irqEn

theorem channelsWord_eq (s : State) : s.channelsWord = if s.mono then 1 else 0 := ofNat_bit s.mono

/-- Settles O54: the three bits of the two words are the three flags. -/
theorem interruptOutput : Obligations.InterruptOutput := by
  refine ⟨fun s => ?_, rfl⟩
  obtain ⟨-, hdone, -, herr⟩ := statusWord_flags s
  have hctrl : s.ctrlWord.getLsbD 0 = s.irqEn := by
    rw [ctrlWord_eq]
    cases s.irqEn <;> rfl
  rw [hdone, herr, hctrl, State.irq]

/-! ### Writes of CMD, CTRL and ARG -/

/-- Settles O6: a CMD write is a register write that BUSY accepts or drops. -/
theorem cmdWriteIsAcceptedOrDropped : Obligations.CmdWriteIsAcceptedOrDropped := by
  intro s rest w hreset
  have hstep := step_write_reg rest .cmd w hreset
  refine ⟨fun hbusy => ?_, fun hbusy => ?_⟩
  · refine hstep.trans ?_
    rw [State.writeReg, State.writeCmd, if_neg (by simp [hbusy])]
    rfl
  · refine hstep.trans ?_
    rw [State.writeReg, State.writeCmd, if_pos hbusy]
    rfl

/-- Settles O46: both are register writes (`step_write_reg`). -/
theorem ctrlAndArgWrites : Obligations.CtrlAndArgWrites :=
  fun _ rest v hreset => ⟨step_write_reg rest .ctrl v hreset, step_write_reg rest .arg v hreset⟩

/-! ### Accesses that get a bus error -/

/-- Settles O48: out of reset and in the window, an access that is not accepted is answered by a bus error. -/
theorem wrongWidthOrAlignmentIsABusError : Obligations.WrongWidthOrAlignmentIsABusError := by
  intro s rest size off v hreset hwindow hwrong
  have haccepted : accepted size off = false := by
    rcases hwrong with h | h <;> simp [accepted, h]
  have hin : ¬ Config.windowBytes ≤ off := not_le_of_gt hwindow
  constructor
  · rw [step_event rfl]
    simp only [applyEvent, hostAccess, if_neg hin, hreset, haccepted, Bool.false_eq_true, if_false]
  · rw [step_event rfl]
    simp only [applyEvent, hostAccess, if_neg hin, hreset, haccepted, Bool.false_eq_true, if_false]

/-! ### Reads -/

/-- A read changes the answer alone, and in a BUSY block perhaps the free-value counter (R80, R286). -/
theorem busRead_eq (s : State) (off : Nat) : ∃ v k, s.busRead off = { s with response := .data v, freeCount := k } ∧
    (s.busy = false → k = s.freeCount) := by
  have hanswer (v : Word) : ∃ v' k, s.answer v = { s with response := .data v', freeCount := k } ∧
      (s.busy = false → k = s.freeCount) := ⟨v, s.freeCount, rfl, fun _ => rfl⟩
  have hfree (hbusy : s.busy = true) : ∃ v' k, s.answerFree = { s with response := .data v', freeCount := k } ∧
      (s.busy = false → k = s.freeCount) := ⟨_, _, rfl, fun h => absurd hbusy (by simp [h])⟩
  unfold State.busRead
  split
  case h_1 r _ =>
    split_ifs with hclosed
    · exact hfree (Bool.and_eq_true_iff.mp hclosed).1
    · exact hanswer _
  case h_2 c n _ =>
    split_ifs with hbusy
    · exact hfree hbusy
    · exact hanswer _
  case h_3 => exact hanswer 0

/-- Settles O49: an aligned read is `busRead`, whose effects are those of `busRead_eq`. -/
theorem readsHaveNoSideEffect : Obligations.ReadsHaveNoSideEffect := by
  intro s rest off hreset hwindow haligned
  obtain ⟨v, k, hread, hidle⟩ := busRead_eq { s with schedule := rest } off
  refine ⟨_, v, (step_read_aligned rest hreset hwindow haligned).trans (congrArg _ hread), rfl, hidle⟩

theorem step_read_reg {s : State} (rest : List Event) (r : Reg) (hreset : s.resetLine = false)
    (hopen : s.busy = false ∨ r.closedWhileBusy = false) :
    step { s with schedule := .access (.read 4 r.offset) :: rest } =
      .next { s with schedule := rest, response := .data (s.regWord r) } := by
  obtain ⟨hwindow, haligned⟩ := r.offset_in_window
  have hanswered : ¬ (s.busy && r.closedWhileBusy) = true := by rcases hopen with h | h <;> simp [h]
  have hword : ({ s with schedule := rest } : State).regWord r = s.regWord r := by cases r <;> rfl
  rw [step_read_aligned rest hreset hwindow haligned, State.busRead, target_regOffset]
  simp only [if_neg hanswered, hword]
  rfl

/-- The registers that a BUSY block hides are those from RATE to CURSOR (R83). -/
theorem Reg.closedWhileBusy_iff (r : Reg) : r.closedWhileBusy = true ↔ 0x14 ≤ r.offset ∧ r.offset ≤ 0x34 := by
  cases r <;> decide

/-- Settles O50: each entry is a register's offset and word, and the offset says whether it is open while BUSY. -/
theorem registerReads : Obligations.RegisterReads := by
  intro s rest hreset p hp hopen
  have hlist : ∃ r : Reg, p = (r.offset, s.regWord r) := by
    have hctrl := ctrlWord_eq s
    have hchannels := channelsWord_eq s
    simp only [List.mem_cons, List.not_mem_nil, or_false] at hp
    rcases hp with rfl | rfl | rfl | rfl | rfl | rfl | rfl | rfl | rfl | rfl | rfl | rfl | rfl | rfl | rfl | rfl
    exacts [⟨.id, rfl⟩, ⟨.status, rfl⟩, ⟨.ctrl, by rw [State.regWord, hctrl]; rfl⟩, ⟨.arg, rfl⟩, ⟨.cmd, rfl⟩, ⟨.rate, rfl⟩,
      ⟨.wet, rfl⟩, ⟨.dry, rfl⟩, ⟨.master, rfl⟩, ⟨.preset, rfl⟩, ⟨.crush, rfl⟩,
      ⟨.channels, by rw [State.regWord, hchannels]; rfl⟩, ⟨.buflen, rfl⟩, ⟨.cursor, rfl⟩, ⟨.blockmax, rfl⟩, ⟨.bufcap, rfl⟩]
  obtain ⟨r, rfl⟩ := hlist
  refine step_read_reg rest r hreset (hopen.imp id fun hoff => ?_)
  rw [Bool.eq_false_iff, ne_eq, Reg.closedWhileBusy_iff]
  omega

/-! ### Sample words -/

theorem sampleOffset_in_window (c : Channel) {n : Nat} (hn : n < 8192) :
    sampleOffset c n < Config.windowBytes ∧ sampleOffset c n % 4 = 0 := by
  cases c <;> simp only [sampleOffset, Channel.base, Config.slBase, Config.srBase, Config.windowBytes] <;> omega

/-- No register lies above BUFCAP (10_state.md R30). -/
theorem find_reg_eq_none {off : Nat} (h : 0x3C < off) : Reg.all.find? (fun r => r.offset == off) = none := by
  refine List.find?_eq_none.mpr fun r _ hr => ?_
  have hoff : r.offset = off := by simpa using hr
  have hle := r.offset_le
  omega

@[simp] theorem target_sampleOffset (c : Channel) {n : Nat} (hn : n < 8192) :
    target (sampleOffset c n) = .sample c n := by
  have hreg : Reg.all.find? (fun r => r.offset == sampleOffset c n) = none := by
    refine find_reg_eq_none ?_
    cases c <;> simp only [sampleOffset, Channel.base, Config.slBase, Config.srBase] <;> omega
  rw [target, hreg]
  cases c with
  | left =>
    have hleft : Config.slBase ≤ sampleOffset .left n ∧ sampleOffset .left n < Config.slBase + 4 * Config.blockMax := by
      simp only [sampleOffset, Channel.base, Config.slBase, Config.blockMax]
      omega
    simp only [if_pos hleft]
    simp only [sampleOffset, Channel.base, Nat.add_sub_cancel_left, Nat.mul_div_cancel_left _ (show 0 < 4 by decide)]
  | right =>
    have hleft : ¬ (Config.slBase ≤ sampleOffset .right n ∧ sampleOffset .right n < Config.slBase + 4 * Config.blockMax) := by
      simp only [sampleOffset, Channel.base, Config.slBase, Config.srBase, Config.blockMax]
      omega
    have hright : Config.srBase ≤ sampleOffset .right n ∧ sampleOffset .right n < Config.srBase + 4 * Config.blockMax := by
      simp only [sampleOffset, Channel.base, Config.srBase, Config.blockMax]
      omega
    simp only [if_neg hleft, if_pos hright]
    simp only [sampleOffset, Channel.base, Nat.add_sub_cancel_left, Nat.mul_div_cancel_left _ (show 0 < 4 by decide)]

theorem step_write_sample {s : State} (rest : List Event) (c : Channel) {n : Nat} (v : Word) (hreset : s.resetLine = false)
    (hn : n < 8192) : step { s with schedule := .access (.write 4 (sampleOffset c n) v) :: rest } =
      .next { (if s.busy then { s with schedule := rest, hazard := true }
               else ({ s with schedule := rest } : State).setSample c n v) with response := .written } := by
  obtain ⟨hwindow, haligned⟩ := sampleOffset_in_window c hn
  rw [step_write_aligned rest v hreset hwindow haligned, State.busWrite, target_sampleOffset c hn]

theorem step_read_sample {s : State} (rest : List Event) (c : Channel) {n : Nat} (hreset : s.resetLine = false)
    (hbusy : s.busy = false) (hn : n < 8192) : step { s with schedule := .access (.read 4 (sampleOffset c n)) :: rest } =
      .next { s with schedule := rest, response := .data (s.sample c n) } := by
  obtain ⟨hwindow, haligned⟩ := sampleOffset_in_window c hn
  have hidle : ¬ s.busy = true := by simp [hbusy]
  rw [step_read_aligned rest hreset hwindow haligned, State.busRead, target_sampleOffset c hn]
  exact congrArg _ (if_neg hidle)

/-- Settles O51: the write is `setSample`, whose read-after-write and frames are the lemmas on it. -/
theorem sampleWordsAreStored : Obligations.SampleWordsAreStored := by
  intro s rest c n v hreset hbusy hn
  have hwrite := step_write_sample rest c v hreset hn
  rw [if_neg (by simp [hbusy])] at hwrite
  refine ⟨_, hwrite, rfl, ?_, fun c' m hm hother => ?_, fun a ha => Memory.byte_setWord_other _ ha v⟩
  · have hread := step_read_sample
      (s := { ({ s with schedule := rest } : State).setSample c n v with response := .written }) rest c hreset hbusy hn
    refine hread.trans ?_
    exact congrArg (fun w => Host.Outcome.next { ({ s with schedule := rest } : State).setSample c n v with response := .data w })
      (sample_setSample_same { s with schedule := rest } c n v)
  · exact sample_setSample_other { s with schedule := rest } hn hm hother v

/-! ### Reads that BUSY closes -/

/-- The offsets that a BUSY block hides are those of closed registers and of sample words (R83). -/
theorem busRead_closed {s : State} {off : Nat} (hbusy : s.busy = true) (haligned : off % 4 = 0)
    (h : (0x14 ≤ off ∧ off ≤ 0x34) ∨ (0x10000 ≤ off ∧ off < 0x18000) ∨ (0x20000 ≤ off ∧ off < 0x28000)) :
    s.busRead off = s.answerFree := by
  have hsample (c : Channel) (n : Nat) (hn : n < 8192) (hoff : off = sampleOffset c n) : s.busRead off = s.answerFree := by
    rw [hoff, State.busRead, target_sampleOffset c hn]
    exact if_pos hbusy
  rcases h with hreg | hleft | hright
  · obtain ⟨r, rfl⟩ := Reg.exists_offset_eq (off := off) (by omega) haligned
    rw [State.busRead, target_regOffset]
    exact if_pos (by rw [hbusy, Bool.true_and, Reg.closedWhileBusy_iff]; exact hreg)
  · refine hsample .left ((off - 0x10000) / 4) (by omega) ?_
    simp only [sampleOffset, Channel.base, Config.slBase]
    omega
  · refine hsample .right ((off - 0x20000) / 4) (by omega) ?_
    simp only [sampleOffset, Channel.base, Config.srBase]
    omega

/-- Settles O52: the read is `busRead` of a closed offset. -/
theorem closedReadsWhileBusyAreUnspecified : Obligations.ClosedReadsWhileBusyAreUnspecified := by
  intro s rest off hreset hbusy haligned hclosed
  have hwindow : off < Config.windowBytes := by unfold Config.windowBytes; omega
  rw [step_read_aligned rest hreset hwindow haligned, busRead_closed (s := { s with schedule := rest }) hbusy haligned hclosed]
  rfl

end Sys2Proof.Machine
end

section
/-! PROOFS. What every step can do, once (`EventEffect`), and with it the invariant of the reachable states (10_state.md R62)
and the readiness that only a reset ends (R34): O58, O59, O60. -/

namespace Sys2Proof.Machine

/-! ### What one input does -/

/-- The ways each input of the schedule can act on a state (60_exceptions.md R252; 20_memory.md R71 to R73;
70_reset_and_hazards.md R280, R286). -/
inductive EventEffect (s : State) : Event → State → Prop where
  | rests : EventEffect s .engine s
  | executes {w : State} (hexec : execWord s.pending.cmd s = .next w) : EventEffect s .engine w.settle
  | reads (size off : Nat) (resp : BusResponse) (k : Nat) :
      EventEffect s (.access (.read size off)) { s with response := resp, freeCount := k }
  | writesNothing (size off : Nat) (v : Word) (resp : BusResponse) :
      EventEffect s (.access (.write size off v)) { s with response := resp }
  | writes (size off : Nat) (v : Word) (hline : s.resetLine = false) :
      EventEffect s (.access (.write size off v)) { s.busWrite off v with response := .written }
  | asserts : EventEffect s .assertReset s.assertReset
  | assertsIdle : EventEffect s .assertResetAfterStep s.assertReset
  | abandons {w : State} (hexec : execWord s.pending.cmd s = .next w) : EventEffect s .assertResetAfterStep w.abandon
  | releases : EventEffect s .releaseReset s.releaseReset

theorem eventEffect_engine {s t : State} (h : engineStep s = .next t) : EventEffect s .engine t := by
  obtain ⟨w, hexec, -⟩ := exists_execWord_eq_next s.pending.cmd s
  rw [engineStep, hexec, mapNext_next] at h
  split_ifs at h <;> obtain rfl := Host.Outcome.next.inj h
  · exact .executes hexec
  · exact .rests

theorem eventEffect_resetAfterStep {s t : State} (h : resetAfterStep s = .next t) :
    EventEffect s .assertResetAfterStep t := by
  obtain ⟨w, hexec, -⟩ := exists_execWord_eq_next s.pending.cmd s
  rw [resetAfterStep, hexec, mapNext_next] at h
  split_ifs at h <;> obtain rfl := Host.Outcome.next.inj h
  · exact .abandons hexec
  · exact .assertsIdle

theorem eventEffect_access {a : BusAccess} {s t : State} (h : hostAccess a s = .next t) :
    EventEffect s (.access a) t := by
  cases a with
  | read size off =>
    simp only [hostAccess] at h
    split_ifs at h <;> obtain rfl := Host.Outcome.next.inj h
    · exact .reads size off _ _
    · obtain ⟨v, k, hread, -⟩ := busRead_eq s off
      rw [hread]
      exact .reads size off _ _
    · exact .reads size off _ _
  | write size off v =>
    simp only [hostAccess] at h
    split_ifs at h with _ hline <;> obtain rfl := Host.Outcome.next.inj h
    · exact .writesNothing size off v _
    · exact .writes size off v (Bool.eq_false_iff.mpr hline)
    · exact .writesNothing size off v _

theorem eventEffect_of_applyEvent {e : Event} {s t : State} (h : applyEvent e s = .next t) : EventEffect s e t := by
  cases e with
  | engine => exact eventEffect_engine h
  | access a => exact eventEffect_access h
  | assertReset => exact Host.Outcome.next.inj h ▸ .asserts
  | assertResetAfterStep => exact eventEffect_resetAfterStep h
  | releaseReset => exact Host.Outcome.next.inj h ▸ .releases

/-- A step is the next input, or the engine's turn where none is left (log 1). -/
theorem eventEffect_of_step {s t : State} (h : step s = .next t) :
    EventEffect { s with schedule := s.schedule.tail } (s.schedule.headD .engine) t := by
  cases hsched : s.schedule with
  | nil =>
    rw [step_empty hsched] at h
    have hsame : ({ s with schedule := [].tail } : State) = s := by
      cases s
      cases hsched
      rfl
    rw [hsame]
    exact eventEffect_engine h
  | cons e rest =>
    rw [step_event hsched] at h
    exact eventEffect_of_applyEvent h

/-- What executing a word can do: what a command can, or the error of a reserved opcode (R252). -/
theorem commandEffect_or_badOpcode {w : Word} {s t : State} (h : execWord w s = .next t) :
    (∃ i, CommandEffect s i t) ∨ t = s.raiseError .badOpcode := by
  rw [execWord] at h
  split at h
  · exact .inl ⟨_, commandEffect_of_exec h⟩
  · exact .inr (Host.Outcome.next.inj h).symm

/-! ### READY -/

theorem CommandEffect.ready {i : Instr} {s t : State} (h : CommandEffect s i t) (hready : s.ready = true) :
    t.ready = true := by
  cases h with
  | initAccepts => rfl
  | presetSwitches i => rw [switchPreset_eq]; exact hready
  | processBlock n => rw [processBlock_eq]; exact hready
  | nop | initRejects | presetIgnored | setWet | setDry | setMaster | setCrush | setChannels | processRejects =>
    exact hready

theorem execWord_ready {w : Word} {s t : State} (h : execWord w s = .next t) (hready : s.ready = true) :
    t.ready = true := by
  rcases commandEffect_or_badOpcode h with ⟨i, heffect⟩ | rfl
  · exact heffect.ready hready
  · exact hready

theorem busWrite_ready (s : State) (off : Nat) (v : Word) : (s.busWrite off v).ready = s.ready := by
  unfold State.busWrite
  split
  case h_1 r _ =>
    cases r
    case cmd => simp only [State.writeReg, State.writeCmd]; split <;> rfl
    all_goals rfl
  case h_2 => split <;> rfl
  case h_3 => rfl

/-- Settles O58: no command, settling or host access clears READY. -/
theorem readyStaysUntilReset : Obligations.ReadyStaysUntilReset := by
  intro s t hstep hready hnoReset
  have hevent : (s.schedule.headD .engine).isReset = false := by
    cases hsched : s.schedule with
    | nil => rfl
    | cons e rest => exact hnoReset e rest hsched
  have heffect := eventEffect_of_step hstep
  generalize s.schedule.headD .engine = e at hevent heffect
  cases heffect with
  | rests | reads | writesNothing => exact hready
  | executes hexec => rw [settle_ready]; exact execWord_ready hexec hready
  | writes size off v => exact (busWrite_ready _ off v).trans hready
  | asserts | assertsIdle | abandons | releases => cases hevent

/-! ### The invariant -/

/-- Right after reset the registers are consistent, whatever the memories hold, if these are canonical and the table is
well formed. -/
theorem sound_of_reset_registers {samples delay : Memory} {line : Bool} {sched : List Event} {resp : BusResponse} {k : Nat}
    {ps : Params} (hsamples : samples.wf = true) (hdelay : delay.wf = true)
    (htable : ∀ i : Fin 10, (ps.presetAt i).offsetsBelowLongest = true) :
    ({ State.reset with samples := samples, delay := delay, freeCount := k, resetLine := line, schedule := sched,
                        response := resp, params := ps } : State).Sound where
  unready _ := ⟨rfl, rfl, rfl⟩
  rate_ok := nofun
  buflen_ok := nofun
  cursor_ok := nofun
  derived_ok := nofun
  table_ok := htable
  errcode_ok := ⟨fun _ => rfl, fun _ => rfl⟩
  samples_wf := hsamples
  delay_wf := hdelay
  hazard_busy := nofun
  reset_idle _ := rfl

/-- Settles O60: the memories after reset are canonical and the candidate table is well formed. -/
theorem resetIsSound : Obligations.ResetIsSound :=
  sound_of_reset_registers (by decide +kernel) (by decide +kernel) (by decide +kernel)

/-- A buffer that the delay memory holds has a length of one of the twenty powers (R48, R133). -/
theorem bufferLength_eq_two_pow {r : Word} (h : bufferLength r ≤ Config.bufCap) :
    ∃ k ≤ Config.maxBufLog2, bufferLength r = 2 ^ k := by
  have hpow : ∃ k, bufferLength r = 2 ^ k := by
    unfold bufferLength nextPow2
    split_ifs
    · exact ⟨0, rfl⟩
    · exact ⟨_, rfl⟩
  obtain ⟨k, hk⟩ := hpow
  refine ⟨k, ?_, hk⟩
  have hcap : Config.bufCap = 2 ^ Config.maxBufLog2 := rfl
  rw [hk, hcap] at h
  exact (Nat.pow_le_pow_iff_right (by decide)).mp h

theorem sound_raiseError {s : State} (h : s.Sound) {c : ErrCode} (hc : c ≠ .none) :
    ({ s.raiseError c with hazard := false } : State).Sound :=
  { h with
    errcode_ok := ⟨nofun, fun hnone => absurd hnone hc⟩
    hazard_busy := nofun
    reset_idle := fun _ => rfl }

theorem sound_initEngine {s : State} (h : s.Sound) {r : Word} (hrate : rateWord r) (hcap : bufferLength r ≤ Config.bufCap) :
    ({ (s.initEngine r).complete with hazard := false } : State).Sound :=
  have hlen : (s.initEngine r).buflen.toNat = bufferLength r := initEngine_buflen_toNat hcap
  { h with
    unready := nofun
    rate_ok := fun _ => f32FinitePositive_iff.mpr hrate
    buflen_ok := fun _ => ⟨hlen, hlen.symm ▸ bufferLength_eq_two_pow hcap⟩
    cursor_ok := fun _ => lt_of_lt_of_eq (bufferLength_pos r) hlen.symm
    derived_ok := fun _ => rfl
    delay_wf := Memory.wf_fillBelow h.delay_wf _ _
    hazard_busy := nofun
    reset_idle := fun _ => rfl }

theorem sound_switchPreset {s : State} (h : s.Sound) (i : Fin 10) :
    ({ (s.switchPreset i).complete with hazard := false } : State).Sound := by
  rcases Bool.eq_false_or_eq_true s.ready with hready | hready
  · rw [switchPreset_of_ready i hready]
    exact { h with
      derived_ok := fun _ => rfl
      delay_wf := Memory.wf_fillBelow h.delay_wf _ _
      hazard_busy := nofun
      reset_idle := fun _ => rfl }
  · rw [switchPreset_of_not_ready i hready]
    exact { h with
      derived_ok := fun h' => absurd (hready.symm.trans h') (by decide)
      hazard_busy := nofun
      reset_idle := fun _ => rfl }

theorem sound_processBlock {s : State} (h : s.Sound) {n : Nat} (hready : s.ready = true) :
    ({ (s.processBlock n).complete with hazard := false } : State).Sound := by
  have hcursor := h.cursor_ok hready
  have hsamples : (s.processBlock n).samples.wf = true := by
    refine samples_wf_writeBlock _ _ _ _ (samples_wf_writeBlock _ _ _ _ ?_)
    rw [runBlock_eq]
    exact h.samples_wf
  rw [processBlock_eq]
  exact { h with
    unready := fun h' => absurd (hready.symm.trans h') (by decide)
    cursor_ok := fun _ => (runBlock_cursor n hcursor).trans_lt (Nat.mod_lt _ (by omega))
    samples_wf := hsamples
    delay_wf := runBlock_delay_wf n h.delay_wf
    hazard_busy := nofun
    reset_idle := fun _ => rfl }

/-- A command keeps the invariant, but for a host write under BUSY that remains to be settled (R286). -/
theorem CommandEffect.sound {i : Instr} {s t : State} (heffect : CommandEffect s i t) (h : s.Sound) :
    ({ t with hazard := false } : State).Sound := by
  cases heffect with
  | initRejects c hc | processRejects n c hc => exact sound_raiseError h hc
  | initAccepts hrate hcap => exact sound_initEngine h hrate hcap
  | presetSwitches i => exact sound_switchPreset h i
  | processBlock n hready => exact sound_processBlock h hready
  | nop | presetIgnored | setWet | setDry | setMaster | setCrush | setChannels =>
    exact { h with hazard_busy := nofun, reset_idle := fun _ => rfl }

theorem execWord_sound {w : Word} {s t : State} (hexec : execWord w s = .next t) (h : s.Sound) :
    ({ t with hazard := false } : State).Sound := by
  rcases commandEffect_or_badOpcode hexec with ⟨i, heffect⟩ | rfl
  · exact heffect.sound h
  · exact sound_raiseError h nofun

/-- Settling what a command left gives the invariant back (R286). -/
theorem sound_settle {t : State} (h : ({ t with hazard := false } : State).Sound) : t.settle.Sound := by
  obtain ⟨hsamples, hdelay⟩ := settle_wf (s := t) h.samples_wf h.delay_wf
  rw [settle_eq]
  exact { h with samples_wf := hsamples, delay_wf := hdelay }

theorem sound_abandon {t : State} (h : ({ t with hazard := false } : State).Sound) : t.abandon.Sound := by
  obtain ⟨hsamples, hdelay⟩ := settle_wf (s := t) h.samples_wf h.delay_wf
  rw [abandon_eq]
  exact sound_of_reset_registers hsamples hdelay h.table_ok

theorem sound_assertReset {s : State} (h : s.Sound) : s.assertReset.Sound := by
  have hsettle := settle_wf h.samples_wf h.delay_wf
  have hforget := forget_wf h.samples_wf h.delay_wf
  rcases Bool.eq_false_or_eq_true s.resetLine with hline | hline
  · rwa [State.assertReset, if_pos hline]
  · rw [assertReset_eq hline]
    refine sound_of_reset_registers ?_ ?_ h.table_ok
    · split
      · exact hsettle.1
      · exact hforget.1
    · split
      · exact hsettle.2
      · exact hforget.2

theorem sound_releaseReset {s : State} (h : s.Sound) : s.releaseReset.Sound := by
  unfold State.releaseReset
  split
  · exact sound_of_reset_registers h.samples_wf h.delay_wf h.table_ok
  · exact h

/-- Clearing ERR with ERRCODE keeps their agreement (R36, R37). -/
theorem sound_writeStatus {s : State} (h : s.Sound) (v : Word) : (s.writeStatus v).Sound := by
  have herr : (s.writeStatus v).err = false ↔ (s.writeStatus v).errcode = .none := by
    simp only [State.writeStatus]
    cases v.getLsbD 3 with
    | false => simpa using h.errcode_ok
    | true => simp
  exact { h with errcode_ok := herr }

theorem sound_writeReg {s : State} (h : s.Sound) (hline : s.resetLine = false) (v : Word) (r : Reg) :
    (s.writeReg v r).Sound := by
  cases r
  case status => exact sound_writeStatus h v
  case ctrl | arg => exact { h with }
  case cmd =>
    rw [State.writeReg, State.writeCmd]
    split
    · exact { h with errcode_ok := ⟨nofun, nofun⟩ }
    · exact { h with
        hazard_busy := fun _ => rfl
        reset_idle := fun h' => absurd (hline.symm.trans h') (by decide) }
  all_goals exact h

theorem sound_busWrite {s : State} (h : s.Sound) (hline : s.resetLine = false) (off : Nat) (v : Word) :
    (s.busWrite off v).Sound := by
  unfold State.busWrite
  split
  case h_1 r _ => exact sound_writeReg h hline v r
  case h_2 =>
    split
    case isTrue hbusy => exact { h with hazard_busy := fun _ => hbusy }
    case isFalse => exact { h with samples_wf := Memory.wf_setWord h.samples_wf _ _ }
  case h_3 => exact h

theorem EventEffect.sound {e : Event} {s t : State} (heffect : EventEffect s e t) (h : s.Sound) : t.Sound := by
  cases heffect with
  | rests => exact h
  | reads | writesNothing => exact { h with }
  | executes hexec => exact sound_settle (execWord_sound hexec h)
  | writes size off v hline => exact { sound_busWrite h hline off v with }
  | asserts | assertsIdle => exact sound_assertReset h
  | abandons hexec => exact sound_abandon (execWord_sound hexec h)
  | releases => exact sound_releaseReset h

/-- Settles O59: every input keeps the invariant, and so does taking it from the schedule. -/
theorem stepKeepsSound : Obligations.StepKeepsSound := by
  intro s t h hstep
  have hpopped : ({ s with schedule := s.schedule.tail } : State).Sound := { h with }
  exact (eventEffect_of_step hstep).sound hpopped

end Sys2Proof.Machine
end

section
/-! PROOFS. Reset (70_reset_and_hazards.md R280, R281, R283) and the host's write of a sample word under BUSY (R286): O53, O55,
O56, O57. -/

namespace Sys2Proof.Machine

/-! ### Under reset -/

/-- Under reset a read of the window is answered by a free word, wherever it reads (log 11). -/
theorem hostAccess_read_underReset {s : State} {size off : Nat} (hline : s.resetLine = true)
    (hwindow : off < Config.windowBytes) : hostAccess (.read size off) s = .next s.answerFree :=
  (if_neg (not_le_of_gt hwindow)).trans (if_pos hline)

theorem hostAccess_write_underReset {s : State} {size off : Nat} (v : Word) (hline : s.resetLine = true)
    (hwindow : off < Config.windowBytes) :
    hostAccess (.write size off v) s = .next { s with response := .written } :=
  (if_neg (not_le_of_gt hwindow)).trans (if_pos hline)

/-- Settles O57: the two accesses are those under reset, and the engine is disabled. -/
theorem noAccessUnderReset : Obligations.NoAccessUnderReset := by
  intro s rest off v hline hwindow
  have hread := hostAccess_read_underReset (s := { s with schedule := rest }) (size := 4) hline hwindow
  have hwrite := hostAccess_write_underReset (s := { s with schedule := rest }) (size := 4) v hline hwindow
  have hengine := engineStep_of_disabled (s := { s with schedule := rest }) (by simp [State.engineEnabled, hline])
  exact ⟨(step_event (e := .access (.write 4 off v)) rfl).trans hwrite,
    ⟨_, _, (step_event (e := .access (.read 4 off)) rfl).trans hread⟩, (step_event (e := .engine) rfl).trans hengine⟩

/-- Settles O55: each entry is a register's offset and its word in the state after reset. -/
theorem resetValues : Obligations.ResetValues := by
  refine ⟨fun p hp => ?_, rfl⟩
  have hlist : ∃ r : Reg, p = (r.offset, State.reset.regWord r) := by
    simp only [List.mem_cons, List.not_mem_nil, or_false] at hp
    rcases hp with rfl | rfl | rfl | rfl | rfl | rfl | rfl | rfl | rfl | rfl | rfl | rfl | rfl | rfl | rfl | rfl
    exacts [⟨.id, rfl⟩, ⟨.status, rfl⟩, ⟨.ctrl, rfl⟩, ⟨.arg, rfl⟩, ⟨.cmd, rfl⟩, ⟨.rate, rfl⟩, ⟨.wet, rfl⟩, ⟨.dry, rfl⟩,
      ⟨.master, rfl⟩, ⟨.preset, rfl⟩, ⟨.crush, rfl⟩, ⟨.channels, rfl⟩, ⟨.buflen, rfl⟩, ⟨.cursor, rfl⟩, ⟨.blockmax, rfl⟩,
      ⟨.bufcap, rfl⟩]
  obtain ⟨r, rfl⟩ := hlist
  exact step_read_reg (s := State.reset) [] r rfl (.inl rfl)

/-! ### Asserting and releasing -/

/-- Releasing an asserted line gives the state after reset, around the memories (R280, R281). -/
theorem step_release {t : State} {rest : List Event} (hline : t.resetLine = true)
    (hsched : t.schedule = .releaseReset :: rest) : step t =
      .next { State.reset with samples := t.samples, delay := t.delay, schedule := rest, response := t.response,
                               freeCount := t.freeCount, params := t.params } := by
  rw [step_event hsched]
  exact congrArg Host.Outcome.next (if_pos hline)

/-- What a state keeps when its reset line is asserted. -/
structure Asserted (s t : State) : Prop where
  resetLine : t.resetLine = true
  schedule : t.schedule = s.schedule
  response : t.response = s.response
  params : t.params = s.params

theorem asserted_assertReset (s : State) : Asserted s s.assertReset := by
  rcases Bool.eq_false_or_eq_true s.resetLine with hline | hline
  · rw [State.assertReset, if_pos hline]
    exact ⟨hline, rfl, rfl, rfl⟩
  · rw [assertReset_eq hline]
    exact ⟨rfl, rfl, rfl, rfl⟩

theorem asserted_abandon {s w : State} (h : CommandFrame s w) : Asserted s w.abandon := by
  rw [abandon_eq]
  exact ⟨rfl, h.schedule, h.response, h.params⟩

/-- Both edges assert the line, before the step of a command or after it. -/
theorem exists_asserted {e : Event} (he : e = .assertReset ∨ e = .assertResetAfterStep) (s : State) :
    ∃ t, applyEvent e s = .next t ∧ Asserted s t ∧ (e = .assertReset → t = s.assertReset) := by
  rcases he with rfl | rfl
  · exact ⟨_, rfl, asserted_assertReset s, fun _ => rfl⟩
  · obtain ⟨w, hexec, hframe⟩ := exists_execWord_eq_next s.pending.cmd s
    cases henabled : s.engineEnabled with
    | false => exact ⟨_, by simp [applyEvent, resetAfterStep, henabled], asserted_assertReset s, nofun⟩
    | true =>
      refine ⟨w.abandon, ?_, asserted_abandon hframe, nofun⟩
      rw [applyEvent, resetAfterStep, if_pos henabled, hexec, mapNext_next]

/-- A reset that abandons a command before its step, with no sample write outstanding, keeps the memories (R280). -/
theorem assertReset_memories {s : State} (hbusy : s.busy = true) (hhazard : s.hazard = false) :
    s.assertReset.samples = s.samples ∧ s.assertReset.delay = s.delay ∧ s.assertReset.freeCount = s.freeCount := by
  rcases Bool.eq_false_or_eq_true s.resetLine with hline | hline
  · rw [State.assertReset, if_pos hline]
    exact ⟨rfl, rfl, rfl⟩
  · rw [assertReset_eq hline]
    simp only [if_pos hbusy, settle_of_no_hazard hhazard, and_self]

/-- Settles O56: both edges assert the line, its release resets the registers, and the memories are those of the
abandoned command, before or after its step. -/
theorem resetFromAnyState : Obligations.ResetFromAnyState := by
  refine ⟨fun s rest e he => ?_, fun s rest hbusy hline hhazard => ?_⟩
  · obtain ⟨t, hassert, hasserted, hbefore⟩ := exists_asserted he { s with schedule := .releaseReset :: rest }
    obtain ⟨hline, hsched, hresponse, hparams⟩ := hasserted
    refine ⟨t, _, (step_event rfl).trans hassert, step_release hline hsched, ?_, fun heq hbusy hhazard => ?_⟩
    · rw [hresponse, hparams]
    · rw [hbefore heq]
      exact assertReset_memories (s := { s with schedule := .releaseReset :: rest }) hbusy hhazard
  · obtain ⟨w, hexec, hframe⟩ := exists_execWord_eq_next s.pending.cmd { s with schedule := .releaseReset :: rest }
    obtain ⟨hline', hsched, -, -⟩ := asserted_abandon hframe
    have hassert := resetAfterStep_of_next (s := { s with schedule := .releaseReset :: rest }) hbusy hline hexec
    refine ⟨w.abandon, _, w, (step_event (e := .assertResetAfterStep) rfl).trans hassert, step_release hline' hsched, hexec, ?_⟩
    rw [abandon_eq, settle_of_no_hazard (hframe.hazard.trans hhazard)]
    exact ⟨rfl, rfl, rfl⟩

/-! ### A sample write under BUSY -/

/-- Settles O53: the write marks the hazard; the command then runs as ever and settling scrambles the memories alone. -/
theorem sampleWriteWhileBusy : Obligations.SampleWriteWhileBusy := by
  intro s c n v i hline hbusy hn hdecode
  have hwrite := step_write_sample [] c v hline hn
  rw [if_pos hbusy] at hwrite
  obtain ⟨w, hexec, heffect⟩ := exists_exec_eq_next i { s with schedule := [], response := .written, hazard := true }
  refine ⟨_, w.settle, hwrite, rfl, ?_, w, hexec, settle_eq w, fun a ha => ?_⟩
  · rw [step_empty rfl, engineStep_of_decode (s := { s with schedule := [], response := .written, hazard := true })
      hbusy hline hdecode, hexec, mapNext_next]
  · rw [settle_of_hazard heffect.frame.hazard]
    exact Memory.byte_fillBelow_above _ ha _

end Sys2Proof.Machine
end

section
/-! PROOFS. binary64 as rational arithmetic (00_scope.md R10 to R12): each operation of the derivation gives the exact
rational result to within 2^-53 of it, and gives it exactly where it is a small multiple of 2^-15. -/

namespace Sys2Proof.Machine

namespace FloatFormat

/-- Rounding a ratio in the normal range errs by at most half a unit of the last of `fracBits` + 1 places. -/
theorem significand_error (f : FloatFormat) {num den : Nat} (hd : 0 < den)
    (hnormal : num = 0 ∨ 2 ^ f.fracBits * den ≤ num) :
    |(f.significand num den * 2 ^ f.place num den : ℚ) - num / den| ≤ num / den / 2 ^ (f.fracBits + 1) := by
  obtain ⟨hup, hdown, -⟩ := nearestEven_spec (num := num) (Nat.mul_pos hd (Nat.two_pow_pos (f.place num den)))
  change 2 * (f.significand num den * _) ≤ _ at hup
  change _ ≤ 2 * (f.significand num den * _) + _ at hdown
  have hdq : (0 : ℚ) < den := by exact_mod_cast hd
  have hupq : 2 * (f.significand num den * (den * 2 ^ f.place num den) : ℚ) ≤ 2 * num + den * 2 ^ f.place num den := by
    exact_mod_cast hup
  have hdownq : 2 * (num : ℚ) ≤ 2 * (f.significand num den * (den * 2 ^ f.place num den)) + den * 2 ^ f.place num den := by
    exact_mod_cast hdown
  rcases hnormal with rfl | hnormal
  · have hzero : f.significand 0 den * (den * 2 ^ f.place 0 den) = 0 := by
      have hpos : 0 < den * 2 ^ f.place 0 den := Nat.mul_pos hd (Nat.two_pow_pos _)
      rcases Nat.eq_zero_or_pos (f.significand 0 den) with h0 | h1
      · rw [h0, Nat.zero_mul]
      · have := Nat.mul_le_mul_right (den * 2 ^ f.place 0 den) h1
        omega
    have hsig : f.significand 0 den = 0 := by
      simpa [hd.ne'] using hzero
    simp [hsig]
  · have hplace : 2 ^ f.fracBits * (den * 2 ^ f.place num den) ≤ num := by
      by_cases h0 : f.place num den = 0
      · rwa [h0, Nat.pow_zero, Nat.mul_one]
      · exact f.place_le h0
    have hplaceq : 2 ^ f.fracBits * (den * 2 ^ f.place num den : ℚ) ≤ num := by exact_mod_cast hplace
    have herr : |(f.significand num den * 2 ^ f.place num den : ℚ) * den - num| ≤ num / 2 ^ (f.fracBits + 1) := by
      have hhalf : (den * 2 ^ f.place num den : ℚ) / 2 ≤ num / 2 ^ (f.fracBits + 1) := by
        rw [le_div_iff₀ (by positivity), pow_succ]
        linarith
      rw [abs_le]
      constructor <;> nlinarith
    have hscale : (f.significand num den * 2 ^ f.place num den : ℚ) - num / den =
        ((f.significand num den * 2 ^ f.place num den : ℚ) * den - num) / den := by
      field_simp
    rw [hscale, abs_div, abs_of_pos hdq, div_right_comm]
    gcongr

end FloatFormat

/-! ### binary64 patterns -/

theorem binary64_fracBits : binary64.fracBits = 52 := rfl
theorem binary64_infPattern : binary64.infPattern = 2047 * 2 ^ 52 := rfl
theorem binary64_unitLog : binary64.unitLog = 1074 := rfl

theorem f64Val_ofNat {p : Nat} (h : p < 2 ^ 64) : f64Val (BitVec.ofNat 64 p) = binary64.unpack p := by
  unfold f64Val
  rw [BitVec.toNat_ofNat, Nat.mod_eq_of_lt h]

/-- A ratio far below the largest number rounds to a number, not to an infinity. -/
theorem binary64_rounds_finite {num den : Nat} (hd : 0 < den) (h : num < 2 ^ 2000 * den) :
    binary64.place num den * 2 ^ binary64.fracBits + binary64.significand num den < binary64.infPattern := by
  obtain ⟨hle, -⟩ := binary64.significand_bounds (num := num) hd
  have hlog : Nat.log2 (num / den) ≤ 2000 := by
    rcases Nat.eq_zero_or_pos (num / den) with h0 | hpos
    · simp [h0]
    · exact ((Nat.log2_lt hpos.ne').mpr ((Nat.div_lt_iff_lt_mul hd).mpr h)).le
  have hplace : binary64.place num den ≤ 2000 := (Nat.sub_le _ _).trans hlog
  rw [binary64_fracBits] at hle ⊢
  rw [binary64_infPattern]
  omega

/-! ### Rational values -/

/-- The finite pattern `x` is the number `q`. -/
def IsF64 (x : DWord) (q : ℚ) : Prop :=
  ∃ a m, f64Val x = .fin a m ∧ (FloatFormat.signedMag a m : ℚ) = q * 2 ^ binary64.unitLog

/-- The magnitudes within which the derivation works, far from the ends of binary64's range. -/
def InRange (e : ℚ) : Prop := 1 / 2 ^ 200 ≤ |e| ∧ |e| ≤ 2 ^ 200

/-- `x` is `e` rounded: within 2^-53 of it, and `e` itself where that is a small multiple of 2^-15. -/
def Rounds (x : DWord) (e : ℚ) : Prop :=
  ∃ r, IsF64 x r ∧ |r - e| ≤ |e| / 2 ^ 53 ∧ ∀ z : ℤ, |z| < 2 ^ 53 → e * 2 ^ 15 = z → r = e

theorem signedMag_cast (a : Bool) (m : Nat) : (FloatFormat.signedMag a m : ℚ) = (if a then -1 else 1) * m := by
  cases a <;> simp [FloatFormat.signedMag]

theorem abs_signedMag_cast (a : Bool) (m : Nat) : |(FloatFormat.signedMag a m : ℚ)| = m := by
  cases a <;> simp [FloatFormat.signedMag]

/-- A ratio of units within the range lies between the normal numbers' ends. -/
theorem ratio_bounds {num den : Nat} {e : ℚ} (hd : 0 < den) (he : (num : ℚ) / den = |e| * 2 ^ binary64.unitLog)
    (h : InRange e) : 2 ^ binary64.fracBits * den ≤ num ∧ num < 2 ^ 2000 * den := by
  obtain ⟨hlow, hhigh⟩ := h
  have hdq : (0 : ℚ) < den := by exact_mod_cast hd
  rw [div_eq_iff hdq.ne', binary64_unitLog] at he
  have hsplit : (2 : ℚ) ^ 1074 = 2 ^ 52 * 2 ^ 822 * 2 ^ 200 := by rw [← pow_add, ← pow_add]
  have hroom : (2 : ℚ) ^ 200 * 2 ^ 1074 < 2 ^ 2000 := by
    rw [← pow_add]; exact pow_lt_pow_right₀ (by norm_num) (by norm_num)
  constructor
  · have hone : (1 : ℚ) ≤ 2 ^ 822 := one_le_pow₀ (by norm_num)
    have hunit : (2 : ℚ) ^ 52 ≤ |e| * 2 ^ 1074 :=
      calc (2 : ℚ) ^ 52 ≤ 2 ^ 52 * 2 ^ 822 := le_mul_of_one_le_right (by positivity) hone
        _ = 1 / 2 ^ 200 * 2 ^ 1074 := by rw [hsplit]; field_simp
        _ ≤ |e| * 2 ^ 1074 := by gcongr
    have : (2 : ℚ) ^ 52 * den ≤ num := by rw [he]; gcongr
    rw [binary64_fracBits]
    exact_mod_cast this
  · have hunit : |e| * 2 ^ 1074 < 2 ^ 2000 := lt_of_le_of_lt (by gcongr) hroom
    have : (num : ℚ) < 2 ^ 2000 * den := by rw [he]; gcongr
    exact_mod_cast this

/-- Rounding a ratio of units is rounding the number it stands for. -/
theorem rounds_roundRatio {neg : Bool} {num den : Nat} {e : ℚ} (hd : 0 < den)
    (he : (FloatFormat.signedMag neg num : ℚ) / den = e * 2 ^ binary64.unitLog) (h : e = 0 ∨ InRange e) :
    Rounds (BitVec.ofNat 64 (binary64.roundRatio neg num den)) e := by
  have hdq : (0 : ℚ) < den := by exact_mod_cast hd
  have hunit : (0 : ℚ) < 2 ^ binary64.unitLog := by positivity
  have habs : (num : ℚ) / den = |e| * 2 ^ binary64.unitLog := by
    rw [← abs_of_pos hunit, ← abs_mul, ← he, abs_div, abs_signedMag_cast, abs_of_pos hdq]
  have hbounds : (num = 0 ∨ 2 ^ binary64.fracBits * den ≤ num) ∧ num < 2 ^ 2000 * den := by
    rcases h with rfl | h
    · have hnum : num = 0 := by simpa [hdq.ne', hd.ne'] using habs
      subst hnum
      exact ⟨.inl rfl, by positivity⟩
    · exact (ratio_bounds hd habs h).imp .inr id
  obtain ⟨hnormal, hbelow⟩ := hbounds
  have hval : f64Val (BitVec.ofNat 64 (binary64.roundRatio neg num den)) =
      .fin neg (binary64.significand num den * 2 ^ binary64.place num den) := by
    rw [f64Val_ofNat (binary64.roundRatio_lt neg num den), binary64.unpack_roundRatio neg hd,
      if_pos (binary64_rounds_finite hd hbelow)]
  have hsign : (if neg then -1 else 1 : ℚ) * (num / den) = e * 2 ^ binary64.unitLog := by
    rw [← he, signedMag_cast, mul_div_assoc]
  have hone : |(if neg then -1 else 1 : ℚ)| = 1 := by cases neg <;> simp
  refine ⟨FloatFormat.signedMag neg (binary64.significand num den * 2 ^ binary64.place num den) / 2 ^ binary64.unitLog,
    ⟨_, _, hval, (div_mul_cancel₀ _ hunit.ne').symm⟩, ?_, fun z hz hez => ?_⟩
  · have herr := binary64.significand_error hd hnormal
    have hscale : (FloatFormat.signedMag neg (binary64.significand num den * 2 ^ binary64.place num den) : ℚ) /
        2 ^ binary64.unitLog - e = (if neg then -1 else 1 : ℚ) *
          ((binary64.significand num den * 2 ^ binary64.place num den : ℚ) - num / den) / 2 ^ binary64.unitLog := by
      rw [mul_sub, hsign, signedMag_cast]
      push_cast
      field_simp
    rw [hscale, abs_div, abs_mul, hone, one_mul, abs_of_pos hunit, div_le_iff₀ hunit]
    refine herr.trans_eq ?_
    rw [habs, binary64_fracBits]
    ring
  · have hexact : num = z.natAbs * 2 ^ 1059 * den := by
      have hzabs : |e| * 2 ^ 15 = z.natAbs := by
        rw [Nat.cast_natAbs, Int.cast_abs, ← hez, abs_mul, abs_of_pos (by positivity : (0 : ℚ) < 2 ^ 15)]
      have hsplit : (2 : ℚ) ^ binary64.unitLog = 2 ^ 15 * 2 ^ 1059 := by rw [← pow_add]; rfl
      rw [div_eq_iff hdq.ne', hsplit, ← mul_assoc, hzabs] at habs
      exact_mod_cast habs
    have hsmall : z.natAbs < 2 * 2 ^ binary64.fracBits := by
      have := Int.abs_eq_natAbs z
      rw [binary64_fracBits]
      omega
    have hval' := binary64.unpack_roundRatio_exact neg hd hsmall (show 1059 + 2 ≤ 2 ^ binary64.expBits - 1 by decide) hexact
    rw [f64Val_ofNat (binary64.roundRatio_lt neg num den), hval', FloatVal.fin.injEq] at hval
    rw [← hval.2, div_eq_iff hunit.ne', ← he, hexact, eq_div_iff hdq.ne', signedMag_cast, signedMag_cast]
    generalize z.natAbs * 2 ^ 1059 = k
    push_cast
    ring

/-! ### The operations -/

theorem signedMag_xor_cast (a b : Bool) (k : Nat) :
    (FloatFormat.signedMag (a ^^ b) k : ℚ) = (if a then -1 else 1) * ((if b then -1 else 1) * k) := by
  cases a <;> cases b <;> simp [FloatFormat.signedMag]

theorem rounds_f64Mul (t : NanTag) {x y : DWord} {p q : ℚ} (hx : IsF64 x p) (hy : IsF64 y q)
    (h : p * q = 0 ∨ InRange (p * q)) : Rounds (f64Mul t x y) (p * q) := by
  obtain ⟨a, m, hxval, hp⟩ := hx
  obtain ⟨b, n, hyval, hq⟩ := hy
  have hunit : (0 : ℚ) < 2 ^ binary64.unitLog := by positivity
  unfold f64Mul
  rw [hxval, hyval]
  refine rounds_roundRatio (Nat.two_pow_pos _) ?_ h
  have hprod : (FloatFormat.signedMag (a ^^ b) (m * n) : ℚ) = p * 2 ^ binary64.unitLog * (q * 2 ^ binary64.unitLog) := by
    rw [← hp, ← hq, signedMag_xor_cast, signedMag_cast, signedMag_cast]
    push_cast
    ring
  rw [hprod, Nat.cast_pow, Nat.cast_ofNat]
  field_simp

theorem rounds_f64Div (t : NanTag) {x y : DWord} {p q : ℚ} (hx : IsF64 x p) (hy : IsF64 y q) (hq0 : q ≠ 0)
    (h : p / q = 0 ∨ InRange (p / q)) : Rounds (f64Div t x y) (p / q) := by
  obtain ⟨a, m, hxval, hp⟩ := hx
  obtain ⟨b, n, hyval, hq⟩ := hy
  have hunit : (0 : ℚ) < 2 ^ binary64.unitLog := by positivity
  have hn : n ≠ 0 := by
    rintro rfl
    rw [signedMag_zero, Int.cast_zero, eq_comm] at hq
    exact hq0 ((mul_eq_zero_iff_right hunit.ne').mp hq)
  unfold f64Div
  rw [hxval, hyval]
  simp only [FloatFormat.div, if_neg hn]
  refine rounds_roundRatio (Nat.pos_of_ne_zero hn) ?_ h
  have hnq : (n : ℚ) ≠ 0 := by exact_mod_cast hn
  have hsign : (if b then -1 else 1 : ℚ) * (if b then -1 else 1) = 1 := by cases b <;> norm_num
  have hnq' : (n : ℚ) = (if b then -1 else 1) * (q * 2 ^ binary64.unitLog) := by
    rw [← hq, signedMag_cast, ← mul_assoc, hsign, one_mul]
  rw [div_eq_iff hnq, signedMag_xor_cast, hnq', Nat.cast_mul, Nat.cast_pow, Nat.cast_ofNat]
  rw [signedMag_cast] at hp
  calc (if a then -1 else 1 : ℚ) * ((if b then -1 else 1) * (m * 2 ^ binary64.unitLog))
      = (if b then -1 else 1) * ((if a then -1 else 1) * m) * 2 ^ binary64.unitLog := by ring
    _ = p / q * 2 ^ binary64.unitLog * ((if b then -1 else 1) * (q * 2 ^ binary64.unitLog)) := by
        rw [hp]
        field_simp

/-- Addition of numbers, an exact zero sum too, rounds their sum. -/
theorem rounds_add (t : NanTag) {a b : Bool} {m n : Nat} {e : ℚ}
    (he : ((FloatFormat.signedMag a m + FloatFormat.signedMag b n : ℤ) : ℚ) = e * 2 ^ binary64.unitLog)
    (h : e = 0 ∨ InRange e) : Rounds (BitVec.ofNat 64 (binary64.add t (.fin a m) (.fin b n))) e := by
  have hunit : (2 : ℚ) ^ binary64.unitLog ≠ 0 := by positivity
  simp only [FloatFormat.add]
  generalize FloatFormat.signedMag a m + FloatFormat.signedMag b n = z at he
  split_ifs with hz
  · have hzero : e = 0 := by
      rw [hz, Int.cast_zero, eq_comm] at he
      exact (mul_eq_zero_iff_right hunit).mp he
    rw [hzero, ← binary64.roundRatio_exact (a && b) Nat.one_pos (p := 0) (num := 0) (by decide)
      (by simp [FloatFormat.magOf])]
    exact rounds_roundRatio Nat.one_pos (by simp) (.inl rfl)
  · refine rounds_roundRatio Nat.one_pos ?_ h
    rw [signedMag_natAbs, he, Nat.cast_one, div_one]

theorem rounds_f64Add (t : NanTag) {x y : DWord} {p q : ℚ} (hx : IsF64 x p) (hy : IsF64 y q)
    (h : p + q = 0 ∨ InRange (p + q)) : Rounds (f64Add t x y) (p + q) := by
  obtain ⟨a, m, hxval, hp⟩ := hx
  obtain ⟨b, n, hyval, hq⟩ := hy
  unfold f64Add
  rw [hxval, hyval]
  exact rounds_add t (by rw [Int.cast_add, hp, hq, add_mul]) h

theorem rounds_f64Sub (t : NanTag) {x y : DWord} {p q : ℚ} (hx : IsF64 x p) (hy : IsF64 y q)
    (h : p - q = 0 ∨ InRange (p - q)) : Rounds (f64Sub t x y) (p - q) := by
  obtain ⟨a, m, hxval, hp⟩ := hx
  obtain ⟨b, n, hyval, hq⟩ := hy
  unfold f64Sub
  rw [hxval, hyval]
  exact rounds_add t (by rw [signedMag_not, Int.cast_add, Int.cast_neg, hp, hq, ← sub_eq_add_neg, sub_mul]) h

theorem rounds_f64OfInt {z : ℤ} (h : z = 0 ∨ InRange z) : Rounds (f64OfInt z) z := by
  unfold f64OfInt
  refine rounds_roundRatio Nat.one_pos ?_ (h.imp (by rintro rfl; simp) id)
  have hsign : (FloatFormat.signedMag (decide (z < 0)) (z.natAbs * 2 ^ binary64.unitLog) : ℚ) =
      (FloatFormat.signedMag (decide (z < 0)) z.natAbs : ℚ) * 2 ^ binary64.unitLog := by
    rw [signedMag_cast, signedMag_cast]
    push_cast
    ring
  rw [hsign, signedMag_natAbs, Nat.cast_one, div_one]

/-- Widening rounds the f32's number (and so is exact, where that is said of rounding). -/
theorem rounds_toF64 (t : NanTag) {x : Word} {a : Bool} {m : Nat} {e : ℚ} (hx : f32Val x = .fin a m)
    (he : (FloatFormat.signedMag a m : ℚ) = e * 2 ^ 149) (h : e = 0 ∨ InRange e) : Rounds (toF64 t x) e := by
  unfold toF64
  rw [hx]
  refine rounds_roundRatio (Nat.two_pow_pos _) ?_ h
  have hsign : (FloatFormat.signedMag a (m * 2 ^ binary64.unitLog) : ℚ) =
      (FloatFormat.signedMag a m : ℚ) * 2 ^ binary64.unitLog := by
    rw [signedMag_cast, signedMag_cast]
    push_cast
    ring
  rw [hsign, he, binary32_unitLog, Nat.cast_pow, Nat.cast_ofNat]
  field_simp

/-! ### Using the values -/

/-- A small multiple of 2^-15 is the result itself. -/
theorem Rounds.isF64 {x : DWord} {e : ℚ} (h : Rounds x e) (z : ℤ) (hz : |z| < 2 ^ 53) (he : e * 2 ^ 15 = z) :
    IsF64 x e := by
  obtain ⟨r, hr, -, hexact⟩ := h
  rwa [hexact z hz he] at hr

/-- A rounded positive number is positive, and within a factor of 2 of it. -/
theorem Rounds.bounds {x : DWord} {e : ℚ} (h : Rounds x e) (he : 0 < e) :
    ∃ r, IsF64 x r ∧ e * (1 - 1 / 2 ^ 53) ≤ r ∧ r ≤ e * (1 + 1 / 2 ^ 53) := by
  obtain ⟨r, hr, herr, -⟩ := h
  rw [abs_of_pos he, abs_le] at herr
  exact ⟨r, hr, by linarith, by linarith⟩

theorem isF64_f64OfInt {z : ℤ} (hz : |z| < 2 ^ 38) : IsF64 (f64OfInt z) z := by
  have hrange : z = 0 ∨ InRange z := by
    rcases eq_or_ne z 0 with h0 | hne
    · exact .inl h0
    · have hone : (1 : ℚ) ≤ |(z : ℚ)| := by exact_mod_cast Int.one_le_abs hne
      have hbig : |(z : ℚ)| < 2 ^ 38 := by exact_mod_cast hz
      exact .inr ⟨le_trans (by norm_num) hone, hbig.le.trans (by norm_num)⟩
  refine (rounds_f64OfInt hrange).isF64 (z * 2 ^ 15) ?_ (by push_cast; ring)
  have habs : |(2 : ℤ) ^ 15| = 2 ^ 15 := by norm_num
  rw [abs_mul, habs]
  omega

/-- The pattern of a positive number. -/
theorem IsF64.eq_fin {x : DWord} {q : ℚ} (h : IsF64 x q) (hq : 0 < q) :
    ∃ m, 0 < m ∧ f64Val x = .fin false m := by
  obtain ⟨a, m, hval, hm⟩ := h
  have hpos : (0 : ℚ) < FloatFormat.signedMag a m := hm ▸ by positivity
  cases a with
  | true => exact absurd hpos (by simp [FloatFormat.signedMag])
  | false => exact ⟨m, by simpa [FloatFormat.signedMag] using hpos, hval⟩

theorem f64Trunc_eq {x : DWord} {q : ℚ} (h : IsF64 x q) (hq : 0 ≤ q) : f64Trunc x = ⌊q⌋ := by
  obtain ⟨a, m, hval, hm⟩ := h
  have hunit : (0 : ℚ) < 2 ^ binary64.unitLog := by positivity
  unfold f64Trunc
  rw [hval, FloatFormat.trunc]
  rcases hq.eq_or_lt with rfl | hpos
  · rw [zero_mul, Int.cast_eq_zero, ← Int.natAbs_eq_zero, natAbs_signedMag] at hm
    simp [hm]
  · obtain rfl : a = false := by
      obtain ⟨_, _, hval'⟩ := IsF64.eq_fin ⟨a, m, hval, hm⟩ hpos
      rw [hval, FloatVal.fin.injEq] at hval'
      exact hval'.1
    have hquot : q = (m : ℚ) / (2 ^ binary64.unitLog : Nat) := by
      rw [eq_div_iff (by positivity), Nat.cast_pow, Nat.cast_ofNat, ← hm]
      simp [FloatFormat.signedMag]
    rw [hquot, Rat.floor_natCast_div_natCast]
    exact Int.natCast_div m (2 ^ binary64.unitLog)

theorem ceil_natCast_div (m : Nat) {d : Nat} (hd : 0 < d) : ⌈(m : ℚ) / d⌉ = ((m + d - 1) / d : Nat) := by
  have hdq : (0 : ℚ) < d := by exact_mod_cast hd
  have hlow := Nat.div_mul_le_self (m + d - 1) d
  have hhigh := Nat.lt_mul_div_succ (m + d - 1) hd
  rw [Nat.mul_comm, Nat.add_mul, Nat.one_mul] at hhigh
  generalize (m + d - 1) / d = k at hlow hhigh
  rw [Int.ceil_eq_iff, Int.cast_natCast, lt_div_iff₀ hdq, div_le_iff₀ hdq, sub_mul, one_mul, sub_lt_iff_lt_add]
  exact ⟨by exact_mod_cast (by omega : k * d < m + d), by exact_mod_cast (by omega : m ≤ k * d)⟩

theorem f64Ceil_eq {x : DWord} {q : ℚ} (h : IsF64 x q) (hq : 0 < q) : f64Ceil x = ⌈q⌉ := by
  have hfin := h.eq_fin hq
  obtain ⟨a, m, hval, hm⟩ := h
  obtain ⟨m', -, hval'⟩ := hfin
  rw [hval, FloatVal.fin.injEq] at hval'
  obtain ⟨rfl, rfl⟩ := hval'
  unfold f64Ceil
  rw [hval, FloatFormat.ceil, if_neg (by decide)]
  have hquot : q = (m : ℚ) / (2 ^ binary64.unitLog : Nat) := by
    rw [eq_div_iff (by positivity), Nat.cast_pow, Nat.cast_ofNat, ← hm]
    simp [FloatFormat.signedMag]
  rw [hquot]
  exact (ceil_natCast_div m (Nat.two_pow_pos _)).symm

end Sys2Proof.Machine
end

section
/-! PROOFS. Deriving a preset at a rate (40_preset_load.md R130 to R139) and the preset table (10_state.md R59, R60): O38, O40,
O41, O42, O43. -/

namespace Sys2Proof.Machine

/-! ### The preset table -/

/-- Settles O43: the candidate table is checked record by record; a lookup is a vector's. -/
theorem presetTableIsWellFormed : Obligations.PresetTableIsWellFormed := by
  refine ⟨by decide +kernel, fun ps i => ⟨fun h => ?_, fun h => ?_⟩⟩
  · exact Vector.getElem?_eq_getElem h
  · exact Vector.getElem?_eq_none h

/-- Settles O41: ten rates, each evaluated. -/
theorem bufferLengthTable : Obligations.BufferLengthTable := by
  unfold Obligations.BufferLengthTable
  decide +kernel

/-! ### The stretch factor and the buffer length -/

theorem inRange_of_pos {e : ℚ} (hlow : 1 / 2 ^ 200 ≤ e) (hhigh : e ≤ 2 ^ 200) : InRange e := by
  have hpos : 0 < e := lt_of_lt_of_le (by positivity) hlow
  rw [InRange, abs_of_pos hpos]
  exact ⟨hlow, hhigh⟩

/-- The rate of an accepted INIT is a positive number of f32's range. -/
theorem rateWord_bounds {r : Word} (h : rateWord r) :
    ∃ m : Nat, f32Val r = .fin false m ∧ 1 / 2 ^ 149 ≤ (m / 2 ^ 149 : ℚ) ∧ (m / 2 ^ 149 : ℚ) ≤ 2 ^ 128 := by
  obtain ⟨m, hpos, hval⟩ := rateWord_iff.mp h
  obtain ⟨n, sh, rfl, hn, hsh, -⟩ := magnitude_of_finite hval
  have hone : (1 : ℚ) ≤ (n * 2 ^ sh : Nat) := by exact_mod_cast hpos
  have hnq : (n : ℚ) ≤ 2 ^ 24 := by exact_mod_cast hn.le
  have hshq : (2 : ℚ) ^ sh ≤ 2 ^ 253 := pow_le_pow_right₀ (by norm_num) hsh
  refine ⟨_, hval, by gcongr, ?_⟩
  rw [div_le_iff₀ (by positivity), Nat.cast_mul, Nat.cast_pow, Nat.cast_ofNat, ← pow_add]
  calc (n * 2 ^ sh : ℚ) ≤ 2 ^ 24 * 2 ^ 253 := by gcongr
    _ = 2 ^ (128 + 149) := by rw [← pow_add]

theorem isF64_one : IsF64 (f64OfInt 1) 1 := by
  have hint : IsF64 (f64OfInt 1) (1 : ℤ) := isF64_f64OfInt (by norm_num)
  rwa [Int.cast_one] at hint

theorem isF64_nativeRate : IsF64 (f64OfInt Config.nativeRate) 22050 := by
  have hint : IsF64 (f64OfInt Config.nativeRate) (22050 : ℤ) := isF64_f64OfInt (by norm_num [Config.nativeRate])
  exact_mod_cast hint

/-- The stretch factor of an accepted rate is a positive number, far from the ends of binary64's range (R130). -/
theorem stretch_isF64 {r : Word} (h : rateWord r) :
    ∃ q, IsF64 (stretch r) q ∧ 1 / 2 ^ 170 ≤ q ∧ q ≤ 2 ^ 130 := by
  obtain ⟨m, hval, hlow, hhigh⟩ := rateWord_bounds h
  generalize hv : (m / 2 ^ 149 : ℚ) = v at hlow hhigh
  have hsigned : (FloatFormat.signedMag false m : ℚ) = v * 2 ^ 149 := by
    rw [← hv, div_mul_cancel₀ _ (by positivity)]
    simp [FloatFormat.signedMag]
  have hrange : InRange v := inRange_of_pos (le_trans (by norm_num) hlow) (hhigh.trans (by norm_num))
  obtain ⟨w, hw, hwlow, hwhigh⟩ := (rounds_toF64 (deriveTag 1) hval hsigned (.inr hrange)).bounds
    (lt_of_lt_of_le (by positivity) hlow)
  have hwlow' : 1 / 2 ^ 150 ≤ w := le_trans (by linarith) hwlow
  have hwhigh' : w ≤ 2 ^ 129 := hwhigh.trans (by linarith)
  have hq : InRange (w / 22050) := by
    refine inRange_of_pos ?_ ?_
    · rw [le_div_iff₀ (by norm_num)]; refine le_trans ?_ hwlow'; norm_num
    · rw [div_le_iff₀ (by norm_num)]; refine hwhigh'.trans ?_; norm_num
  obtain ⟨q, hq, hqlow, hqhigh⟩ := (rounds_f64Div (deriveTag 0) hw isF64_nativeRate (by norm_num) (.inr hq)).bounds
    (div_pos (lt_of_lt_of_le (by positivity) hwlow') (by norm_num))
  exact ⟨q, hq, le_trans (by linarith) hqlow, hqhigh.trans (by linarith)⟩

/-- A positive integer times the stretch factor, rounded. -/
theorem exists_scaled {st : DWord} {q : ℚ} (t : NanTag) (hst : IsF64 st q) (hlow : 1 / 2 ^ 170 ≤ q) (hhigh : q ≤ 2 ^ 130)
    {k : Nat} (hpos : 0 < k) (hk : k < 2 ^ 20) : ∃ v, IsF64 (f64Mul t (f64OfInt (k : ℤ)) st) v ∧
      k * q * (1 - 1 / 2 ^ 53) ≤ v ∧ v ≤ k * q * (1 + 1 / 2 ^ 53) := by
  have hint : IsF64 (f64OfInt (k : ℤ)) (k : ℤ) := isF64_f64OfInt (by rw [abs_of_nonneg (by positivity)]; omega)
  have hqpos : 0 < q := lt_of_lt_of_le (by positivity) hlow
  have hone : (1 : ℚ) ≤ k := by exact_mod_cast hpos
  have hbig : (k : ℚ) ≤ 2 ^ 20 := by exact_mod_cast hk.le
  rw [Int.cast_natCast] at hint
  refine (rounds_f64Mul t hint hst (.inr (inRange_of_pos ?_ ?_))).bounds (by positivity)
  · calc (1 / 2 ^ 200 : ℚ) ≤ 1 * (1 / 2 ^ 170) := by norm_num
      _ ≤ k * q := by gcongr
  · calc (k * q : ℚ) ≤ 2 ^ 20 * 2 ^ 130 := by gcongr
      _ ≤ 2 ^ 200 := by norm_num

/-- The required length is the rounded product's ceiling (R131). -/
theorem requiredLength_eq {r : Word} (h : rateWord r) : ∃ q v : ℚ, IsF64 (stretch r) q ∧ 1 / 2 ^ 170 ≤ q ∧ q ≤ 2 ^ 130 ∧
    49184 * q * (1 - 1 / 2 ^ 53) ≤ v ∧ 0 < v ∧ requiredLength (stretch r) = ⌈v⌉.toNat := by
  obtain ⟨q, hst, hlow, hhigh⟩ := stretch_isF64 h
  obtain ⟨v, hv, hvlow, -⟩ := exists_scaled (deriveTag 2) hst hlow hhigh (k := 49184) (by norm_num) (by norm_num)
  have hqpos : 0 < q := lt_of_lt_of_le (by positivity) hlow
  have hvpos : 0 < v := lt_of_lt_of_le (by push_cast; linarith) hvlow
  refine ⟨q, v, hst, hlow, hhigh, by exact_mod_cast hvlow, hvpos, ?_⟩
  rw [requiredLength]
  exact congrArg Int.toNat (f64Ceil_eq hv hvpos)

theorem le_nextPow2 (n : Nat) : n ≤ nextPow2 n := by
  unfold nextPow2
  split_ifs with h
  · exact h
  · have : n - 1 < 2 ^ (Nat.log2 (n - 1) + 1) := Nat.lt_log2_self
    omega

/-- `nextPow2` is the least power of two that is at least its argument (R12). -/
theorem nextPow2_least (n : Nat) : ∃ k, nextPow2 n = 2 ^ k ∧ ∀ j, n ≤ 2 ^ j → k ≤ j := by
  unfold nextPow2
  split_ifs with h
  · exact ⟨0, rfl, fun j _ => Nat.zero_le j⟩
  · refine ⟨_, rfl, fun j hj => ?_⟩
    have hlog : Nat.log2 (n - 1) < j := (Nat.log2_lt (by omega)).mpr (by omega)
    omega

theorem bufferLength_eq (r : Word) : bufferLength r = nextPow2 (requiredLength (stretch r)) := by
  unfold bufferLength
  rfl

/-- Settles O40: the stretch factor is a positive number, so the required length is a positive number's ceiling. -/
theorem bufferLengthIsTheLeastPowerOfTwo : Obligations.BufferLengthIsTheLeastPowerOfTwo := by
  intro r hrate
  obtain ⟨q, v, hst, hlow, -, -, hvpos, hreq⟩ := requiredLength_eq hrate
  obtain ⟨k, hk, hleast⟩ := nextPow2_least (requiredLength (stretch r))
  refine ⟨hst.eq_fin (lt_of_lt_of_le (by positivity) hlow), ?_, k, (bufferLength_eq r).trans hk, hk ▸ le_nextPow2 _, hleast⟩
  have hceil : 0 < ⌈v⌉ := Int.ceil_pos.mpr hvpos
  omega

/-! ### Offsets -/

theorem scaleOffset_zero {r : Word} (h : rateWord r) : scaleOffset (stretch r) 0 = 0 := by
  obtain ⟨q, hst, -, -⟩ := stretch_isF64 h
  have hzero : IsF64 (f64OfInt ((Config.offsetScale * (0 : Half).toNat : Nat) : Int)) (0 : ℤ) := isF64_f64OfInt (by norm_num)
  rw [Int.cast_zero] at hzero
  have hprod := (rounds_f64Mul (deriveTag 3) hzero hst (.inl (zero_mul q))).isF64 0 (by norm_num) (by simp)
  rw [zero_mul] at hprod
  rw [scaleOffset, f64Trunc_eq hprod le_rfl, Int.floor_zero, Int.toNat_zero]

/-- Settles O42: an offset of at most 49180 scales to a product that rounds below the rounded product of 49184. -/
theorem scaledOffsetsStayInTheBuffer : Obligations.ScaledOffsetsStayInTheBuffer := by
  intro p r hp hrate f hf
  have hoffset : 4 * f.toNat < 49184 := of_decide_eq_true (List.all_eq_true.mp hp f hf)
  rw [bufferLength_eq]
  refine lt_of_lt_of_le ?_ (le_nextPow2 _)
  obtain ⟨q, v, hst, hlow, hhigh, hvlow, hvpos, hreq⟩ := requiredLength_eq hrate
  have hceil : 0 < ⌈v⌉ := Int.ceil_pos.mpr hvpos
  rcases Nat.eq_zero_or_pos f.toNat with hzero | hpos
  · obtain rfl : f = 0 := BitVec.eq_of_toNat_eq hzero
    rw [scaleOffset_zero hrate]
    omega
  · obtain ⟨u, hu, hulow, huhigh⟩ := exists_scaled (deriveTag 3) hst hlow hhigh (k := 4 * f.toNat) (by omega) (by omega)
    have hqpos : 0 < q := lt_of_lt_of_le (by positivity) hlow
    have hk : ((4 * f.toNat : Nat) : ℚ) ≤ 49180 := by exact_mod_cast (by omega : 4 * f.toNat ≤ 49180)
    have hkpos : (0 : ℚ) < (4 * f.toNat : Nat) := by exact_mod_cast (by omega : 0 < 4 * f.toNat)
    have hupos : 0 ≤ u := le_trans (by have := mul_pos hkpos hqpos; linarith) hulow
    have hlt : u < v := by
      have hkq : ((4 * f.toNat : Nat) : ℚ) * q ≤ 49180 * q := by gcongr
      linarith
    have hfloor : ⌊u⌋ < ⌈v⌉ := by
      have h1 := Int.floor_le u
      have h2 := Int.le_ceil v
      exact_mod_cast lt_of_le_of_lt h1 (lt_of_lt_of_le hlt h2)
    have htrunc : scaleOffset (stretch r) f = ⌊u⌋.toNat := congrArg Int.toNat (f64Trunc_eq hu hupos)
    omega

/-! ### Gains -/

theorem abs_toInt_le (f : Half) : |f.toInt| ≤ 2 ^ 15 := by
  have hlow := f.le_toInt
  have hhigh := f.toInt_lt
  rw [abs_le]
  omega

/-- A Q15 field over 32768 is a number of binary64 (R135). -/
theorem isF64_q15 (f : Half) :
    IsF64 (f64Div (deriveTag 5) (f64OfInt f.toInt) (f64OfInt Config.q15Div)) (f.toInt / 2 ^ 15) := by
  have hle := abs_toInt_le f
  have hfield : IsF64 (f64OfInt f.toInt) f.toInt := isF64_f64OfInt (by omega)
  have hdiv : IsF64 (f64OfInt Config.q15Div) (2 ^ 15 : ℚ) := by
    have hint : IsF64 (f64OfInt Config.q15Div) ((Config.q15Div : ℤ) : ℚ) := isF64_f64OfInt (by norm_num [Config.q15Div])
    norm_num [Config.q15Div] at hint ⊢
    exact hint
  have hrange : (f.toInt / 2 ^ 15 : ℚ) = 0 ∨ InRange (f.toInt / 2 ^ 15) := by
    rcases eq_or_ne f.toInt 0 with h0 | hne
    · exact .inl (by simp [h0])
    · have hone : (1 : ℚ) ≤ |(f.toInt : ℚ)| := by exact_mod_cast Int.one_le_abs hne
      have hbig : |(f.toInt : ℚ)| ≤ 2 ^ 15 := by exact_mod_cast hle
      right
      rw [InRange, abs_div, abs_of_pos (by norm_num : (0 : ℚ) < 2 ^ 15)]
      constructor
      · rw [le_div_iff₀ (by norm_num)]; exact le_trans (by norm_num) hone
      · rw [div_le_iff₀ (by norm_num)]; exact hbig.trans (by norm_num)
  exact (rounds_f64Div (deriveTag 5) hfield hdiv (by norm_num) hrange).isF64 f.toInt (by omega)
    (div_mul_cancel₀ _ (by norm_num))

/-- A small multiple of 2^-15 narrows to a number of binary32 exactly. -/
theorem f32Val_toF32 (t : NanTag) {x : DWord} {z : ℤ} (hx : IsF64 x (z / 2 ^ 15)) (hz : z ≠ 0) (hsmall : |z| < 2 ^ 24) :
    f32Val (toF32 t x) = .fin (decide (z < 0)) (z.natAbs * 2 ^ 134) := by
  obtain ⟨a, m, hval, hm⟩ := hx
  obtain ⟨u, hu⟩ : ∃ u, u = 2 ^ (binary64.unitLog - 15) := ⟨_, rfl⟩
  have hupos : 0 < u := hu ▸ Nat.two_pow_pos _
  have hunit : (2 : ℚ) ^ binary64.unitLog = 2 ^ 15 * u := by rw [hu, Nat.cast_pow, Nat.cast_ofNat, ← pow_add]; rfl
  rw [hunit, ← mul_assoc, div_mul_cancel₀ _ (by positivity)] at hm
  have hmz : FloatFormat.signedMag a m = z * u := by exact_mod_cast hm
  have hmag : m = z.natAbs * u := by rw [← natAbs_signedMag a m, hmz, Int.natAbs_mul, Int.natAbs_natCast]
  have hsign : a = decide (z < 0) := by
    have hmpos : 0 < m := hmag ▸ Nat.mul_pos (Int.natAbs_pos.mpr hz) hupos
    rw [← Bool.coe_iff_coe, ← signedMag_neg_iff hmpos, hmz, decide_eq_true_iff]
    rw [Int.mul_neg_iff]
    omega
  rw [Int.abs_eq_natAbs] at hsmall
  unfold toF32
  rw [hval, ← hsign]
  refine f32Val_roundRatio_exact a (Nat.two_pow_pos _) (by exact_mod_cast hsmall) (by decide) ?_
  have hexp : binary64.unitLog - 15 + binary32.unitLog = 134 + binary64.unitLog := rfl
  rw [hmag, hu, Nat.mul_assoc, Nat.mul_assoc, ← Nat.pow_add, ← Nat.pow_add, hexp]

theorem f32Val_gainWord (f : Half) : f32Val (gainWord f) = .fin f.msb (f.toInt.natAbs * 2 ^ 134) := by
  have hle := abs_toInt_le f
  rcases eq_or_ne f.toInt 0 with hzero | hne
  · obtain rfl : f = 0 := BitVec.eq_of_toInt_eq (hzero.trans BitVec.toInt_zero.symm)
    decide +kernel
  · rw [gainWord, f32Val_toF32 (deriveTag 4) (isF64_q15 f) hne (by omega), BitVec.msb_eq_toInt]

/-! ### The derived record -/

/-- The stretch factor of 22050 Hz is 1.0. -/
theorem isF64_stretch_native : IsF64 (stretch 0x46AC4400) 1 := by
  have hone : stretch 0x46AC4400 = f64OfInt 1 := by decide +kernel
  rw [hone]
  exact isF64_one

theorem scaleOffset_native (f : Half) : scaleOffset (stretch 0x46AC4400) f = 4 * f.toNat := by
  have hf := f.isLt
  obtain ⟨k, hk⟩ : ∃ k, k = 4 * f.toNat := ⟨_, rfl⟩
  have hint : IsF64 (f64OfInt ((Config.offsetScale * f.toNat : Nat) : Int)) ((k : ℤ) : ℚ) := by
    rw [hk]
    exact isF64_f64OfInt (by rw [abs_of_nonneg (by positivity)]; simp only [Config.offsetScale]; omega)
  rw [Int.cast_natCast] at hint
  have hrange : (k * 1 : ℚ) = 0 ∨ InRange (k * 1 : ℚ) := by
    rcases Nat.eq_zero_or_pos k with h0 | hpos
    · exact .inl (by simp [h0])
    · have hone : (1 : ℚ) ≤ k := by exact_mod_cast hpos
      have hbig : (k : ℚ) ≤ 2 ^ 18 := by exact_mod_cast (by omega : k ≤ 2 ^ 18)
      exact .inr (inRange_of_pos (by linarith) (by linarith))
  have hprod := (rounds_f64Mul (deriveTag 3) hint isF64_stretch_native hrange).isF64 (k * 2 ^ 15)
    (by rw [abs_of_nonneg (by positivity)]; omega) (by push_cast; ring)
  rw [mul_one] at hprod
  rw [scaleOffset, f64Trunc_eq hprod (by positivity), Int.floor_natCast, Int.toNat_natCast, hk]

/-- Settles O38: the gains by `f32Val_gainWord`, the offsets by `scaleOffset_native` and `scaleOffset_zero`, the record by
the fields of `derive`. -/
theorem fieldConversionsAreExact : Obligations.FieldConversionsAreExact := by
  refine ⟨f32Val_gainWord, fun st f => ⟨_, rfl⟩, scaleOffset_native, fun _ => scaleOffset_zero, ?_⟩
  rintro ps p r d o rfl ho
  unfold derive
  simp only [ho, offsetWord, and_self]

end Sys2Proof.Machine
end

section
/-! PROOFS. IIR_RETUNE (40_preset_load.md R136; 00_scope.md R7) and O39: where the parameters list no point, the default
formula gives its gain back at 22050 Hz, because its few roundings are far smaller than the gap between f32 numbers. -/

namespace Sys2Proof.Machine

/-! ### The numbers of a format have gaps -/

namespace FloatFormat

/-- Between two magnitudes lies a gap of at least one unit in `fracBits` + 1 places of the smaller. -/
theorem magOf_gap (f : FloatFormat) {p q : Nat} (h : p < q) :
    f.magOf p * (2 ^ (f.fracBits + 1) + 1) ≤ f.magOf q * 2 ^ (f.fracBits + 1) := by
  have hnext : f.magOf (p + 1) ≤ f.magOf q := f.magOf_strictMono.monotone h
  obtain ⟨sh, n, rfl, hn, hsh⟩ := f.pattern_eq p
  rw [Nat.add_assoc, f.magOf_place (by omega) (by omega)] at hnext
  rw [f.magOf_place hn.le hsh]
  refine le_trans ?_ (Nat.mul_le_mul_right _ hnext)
  have hunit : n * (2 ^ (f.fracBits + 1) + 1) ≤ (n + 1) * 2 ^ (f.fracBits + 1) := by
    rw [Nat.pow_succ, Nat.mul_comm _ 2, Nat.mul_add, Nat.add_mul, Nat.mul_one, Nat.one_mul]
    exact Nat.add_le_add_left hn.le _
  calc n * 2 ^ sh * (2 ^ (f.fracBits + 1) + 1) = n * (2 ^ (f.fracBits + 1) + 1) * 2 ^ sh := by ring
    _ ≤ (n + 1) * 2 ^ (f.fracBits + 1) * 2 ^ sh := Nat.mul_le_mul_right _ hunit
    _ = (n + 1) * 2 ^ sh * 2 ^ (f.fracBits + 1) := by ring

/-- A ratio much nearer to a magnitude than the gaps around it rounds to it. -/
theorem pattern_of_near (f : FloatFormat) {num den p : Nat} (hd : 0 < den) (hpos : 0 < f.magOf p)
    (h : |(num / den : ℚ) - f.magOf p| ≤ f.magOf p / 2 ^ (f.fracBits + 4)) :
    f.place num den * 2 ^ f.fracBits + f.significand num den = p := by
  obtain ⟨hhidden, hplace⟩ := f.significand_bounds (num := num) hd
  obtain ⟨hnearest, -⟩ := f.significand_nearest (num := num) hd p
  rw [← f.magOf_place hhidden hplace] at hnearest
  generalize f.place num den * 2 ^ f.fracBits + f.significand num den = p' at hnearest ⊢
  have hdq : (0 : ℚ) < den := by exact_mod_cast hd
  have hposq : (0 : ℚ) < f.magOf p := by exact_mod_cast hpos
  have hnear : |(f.magOf p' : ℚ) - num / den| ≤ |(f.magOf p : ℚ) - num / den| := by
    have hscaled (k : Nat) : |(k : ℚ) - num / den| * den = (((k * den : Nat) - (num : Int)).natAbs : ℚ) := by
      rw [Nat.cast_natAbs, Int.cast_abs, ← abs_of_pos hdq, ← abs_mul, abs_of_pos hdq, sub_mul, div_mul_cancel₀ _ hdq.ne']
      push_cast
      rfl
    rw [← mul_le_mul_iff_left₀ hdq, hscaled, hscaled]
    exact_mod_cast hnearest
  rw [abs_sub_comm (f.magOf p : ℚ)] at hnear
  have hnear' := hnear.trans h
  have hgap {i j : Nat} (hij : i < j) : (f.magOf i : ℚ) * (2 ^ (f.fracBits + 1) + 1) ≤ f.magOf j * 2 ^ (f.fracBits + 1) := by
    exact_mod_cast f.magOf_gap hij
  have hG : (2 : ℚ) ≤ 2 ^ (f.fracBits + 1) := by
    rw [pow_succ]
    have : (1 : ℚ) ≤ 2 ^ f.fracBits := one_le_pow₀ (by norm_num)
    linarith
  have hfour : (2 : ℚ) ^ (f.fracBits + 4) = 8 * 2 ^ (f.fracBits + 1) := by ring
  rw [hfour] at h hnear'
  generalize (2 : ℚ) ^ (f.fracBits + 1) = G at *
  have hclose : |(f.magOf p' : ℚ) - f.magOf p| * (4 * G) ≤ f.magOf p := by
    have htri := abs_sub_le (f.magOf p' : ℚ) (num / den) (f.magOf p)
    have hsum : |(f.magOf p' : ℚ) - f.magOf p| ≤ f.magOf p / (4 * G) := by
      have : (f.magOf p / (8 * G) + f.magOf p / (8 * G) : ℚ) = f.magOf p / (4 * G) := by field_simp; norm_num
      linarith
    rwa [le_div_iff₀ (by positivity)] at hsum
  rcases lt_trichotomy p' p with hlt | heq | hgt
  · have hg := hgap hlt
    have habs := neg_le_abs ((f.magOf p' : ℚ) - f.magOf p)
    have hbelow : (f.magOf p - f.magOf p' : ℚ) * (4 * G) ≤ f.magOf p :=
      le_trans (mul_le_mul_of_nonneg_right (by linarith) (by positivity)) hclose
    have hbelow' := mul_le_mul_of_nonneg_right hbelow (by positivity : 0 ≤ G + 1)
    have hg' := mul_le_mul_of_nonneg_left hg (by positivity : 0 ≤ 4 * G)
    have hpos2 := mul_pos hposq (by linarith : 0 < 3 * G - 1)
    linarith
  · exact heq
  · have hg := hgap hgt
    have habs := le_abs_self ((f.magOf p' : ℚ) - f.magOf p)
    nlinarith

end FloatFormat

/-- Numbers of different signs are not near. -/
theorem sign_eq_of_near {a b : Bool} {u v c : ℚ} (hu : 0 ≤ u) (hv : 0 < v) (hc : c < 1)
    (h : |(if a then -1 else 1) * u - (if b then -1 else 1) * v| ≤ c * v) : a = b ∧ |u - v| ≤ c * v := by
  have hcv : c * v < v := by nlinarith
  cases a <;> cases b <;> simp only [Bool.false_eq_true, if_true, if_false, one_mul] at h ⊢
  · exact ⟨trivial, h⟩
  · have := le_abs_self (u - -1 * v)
    linarith
  · have := neg_le_abs (-1 * u - v)
    linarith
  · refine ⟨trivial, le_of_eq_of_le ?_ h⟩
    rw [abs_sub_comm]
    congr 1
    ring

/-- A pattern of binary64 that is nearly the number of a word narrows to that word. -/
theorem toF32_of_near (t : NanTag) {x : DWord} {w : Word} {r e : ℚ} {b : Bool} {m : Nat} (hx : IsF64 x r)
    (hw : f32Val w = .fin b m) (hm : (FloatFormat.signedMag b m : ℚ) = e * 2 ^ 149) (he : e ≠ 0)
    (hnear : |r - e| ≤ |e| / 2 ^ 27) : toF32 t x = w := by
  obtain ⟨a, n, hval, hn⟩ := hx
  obtain ⟨hp, hsign, hmag⟩ := f32Val_eq_fin_iff.mp hw
  have hunit : (0 : ℚ) < 2 ^ binary64.unitLog := by positivity
  have hr : r = (if a then -1 else 1) * (n / 2 ^ binary64.unitLog) := by
    rw [← mul_div_assoc, eq_div_iff hunit.ne', ← hn, signedMag_cast]
  have hev : e = (if b then -1 else 1) * (m / 2 ^ 149) := by
    rw [← mul_div_assoc, eq_div_iff (by positivity), ← hm, signedMag_cast]
  have habs : |e| = m / 2 ^ 149 := by
    rw [← abs_signedMag_cast b, hm, abs_mul, abs_of_pos (by positivity : (0 : ℚ) < 2 ^ 149), mul_div_cancel_right₀ _ (by positivity)]
  have hmpos : (0 : ℚ) < m / 2 ^ 149 := habs ▸ abs_pos.mpr he
  rw [habs, hr, hev, div_eq_inv_mul _ ((2 : ℚ) ^ 27)] at hnear
  have hnonneg : 0 ≤ (n : ℚ) / 2 ^ binary64.unitLog := div_nonneg (Nat.cast_nonneg n) hunit.le
  obtain ⟨rfl, hclose⟩ := sign_eq_of_near hnonneg hmpos (by norm_num) hnear
  have hratio : |((n * 2 ^ 149 : Nat) / (2 ^ binary64.unitLog : Nat) : ℚ) - binary32.magOf (w.toNat % 2 ^ 31)| ≤
      binary32.magOf (w.toNat % 2 ^ 31) / 2 ^ (binary32.fracBits + 4) := by
    have hscale : ((n * 2 ^ 149 : Nat) / (2 ^ binary64.unitLog : Nat) : ℚ) - m =
        (n / 2 ^ binary64.unitLog - m / 2 ^ 149) * 2 ^ 149 := by
      push_cast
      field_simp
      ring
    rw [hmag, hscale, abs_mul, abs_of_pos (by positivity : (0 : ℚ) < 2 ^ 149), ← le_div_iff₀ (by positivity)]
    refine hclose.trans_eq ?_
    rw [binary32_fracBits]
    ring
  have hmagpos : 0 < binary32.magOf (w.toNat % 2 ^ 31) := by
    rw [hmag]
    rcases Nat.eq_zero_or_pos m with h0 | hpos
    · rw [h0] at hmpos
      simp at hmpos
    · exact hpos
  have hpattern := binary32.pattern_of_near (Nat.two_pow_pos _) hmagpos hratio
  unfold toF32
  rw [hval]
  change BitVec.ofNat 32 (binary32.roundRatio a (n * 2 ^ 149) (2 ^ binary64.unitLog)) = w
  rw [FloatFormat.roundRatio_eq, hpattern, binary32_infPattern, Nat.min_eq_left hp.le, ← hsign, ← toNat_eq_withSign, BitVec.ofNat_toNat,
    BitVec.setWidth_eq]

/-! ### Small relative errors -/

/-- `r` is `e` but for a relative error of at most `c`. -/
def Near (c r e : ℚ) : Prop := |r - e| ≤ c * |e|

theorem Near.refl {c : ℚ} (hc : 0 ≤ c) (e : ℚ) : Near c e e := by
  rw [Near, sub_self, abs_zero]
  positivity

theorem Near.mono {c d r e : ℚ} (h : Near c r e) (hcd : c ≤ d) : Near d r e :=
  le_trans h (mul_le_mul_of_nonneg_right hcd (abs_nonneg e))

theorem Near.abs_le {c r e : ℚ} (h : Near c r e) : |r| ≤ (1 + c) * |e| := by
  have := abs_sub_abs_le_abs_sub r e
  rw [Near] at h
  linarith

theorem Near.le_abs {c r e : ℚ} (h : Near c r e) : (1 - c) * |e| ≤ |r| := by
  have := abs_sub_abs_le_abs_sub e r
  rw [Near, abs_sub_comm] at h
  linarith

theorem Near.trans {c d r s e : ℚ} (h : Near c r s) (h' : Near d s e) (hc : 0 ≤ c) : Near (c * (1 + d) + d) r e := by
  have htri := abs_sub_le r s e
  have hs := mul_le_mul_of_nonneg_left h'.abs_le hc
  rw [Near] at *
  linarith

theorem Near.mul {c r r' e e' : ℚ} (h : Near c r e) (h' : Near c r' e') (hc1 : c ≤ 1) :
    Near (3 * c) (r * r') (e * e') := by
  have hsplit : r * r' - e * e' = r * (r' - e') + (r - e) * e' := by ring
  have htri := abs_add_le (r * (r' - e')) ((r - e) * e')
  have hfirst : |r * (r' - e')| ≤ 2 * |e| * (c * |e'|) := by
    rw [abs_mul]
    exact mul_le_mul (h.abs_le.trans (by nlinarith [abs_nonneg e])) h' (abs_nonneg _) (by positivity)
  have hsecond : |(r - e) * e'| ≤ c * |e| * |e'| := by
    rw [abs_mul]
    exact mul_le_mul_of_nonneg_right h (abs_nonneg _)
  rw [Near, hsplit, abs_mul]
  linarith

theorem Near.div {c r r' e e' : ℚ} (h : Near c r e) (h' : Near c r' e') (hc : 0 ≤ c) (hc2 : c ≤ 1 / 2) (he : e' ≠ 0) :
    Near (4 * c) (r / r') (e / e') := by
  have hpos : 0 < |e'| := abs_pos.mpr he
  have hlow : |e'| / 2 ≤ |r'| := le_trans (by nlinarith) h'.le_abs
  have hr : r' ≠ 0 := abs_pos.mp (lt_of_lt_of_le (by positivity) hlow)
  have hsplit : r / r' - e / e' = ((r - e) * e' - e * (r' - e')) / (r' * e') := by
    field_simp
    ring
  have htri := abs_sub ((r - e) * e') (e * (r' - e'))
  have hfirst : |(r - e) * e'| ≤ c * |e| * |e'| := by
    rw [abs_mul]
    exact mul_le_mul_of_nonneg_right h (abs_nonneg _)
  have hsecond : |e * (r' - e')| ≤ |e| * (c * |e'|) := by
    rw [abs_mul]
    exact mul_le_mul_of_nonneg_left h' (abs_nonneg _)
  have hnum : |(r - e) * e' - e * (r' - e')| ≤ 2 * (c * |e| * |e'|) := by linarith
  have hcancel : 4 * c * (|e| / |e'|) * (|e'| / 2 * |e'|) = 2 * (c * |e| * |e'|) := by
    field_simp
    ring
  rw [Near, hsplit, abs_div, abs_div, abs_mul, div_le_iff₀ (by positivity)]
  calc |(r - e) * e' - e * (r' - e')| ≤ 4 * c * (|e| / |e'|) * (|e'| / 2 * |e'|) := hnum.trans_eq hcancel.symm
    _ ≤ 4 * c * (|e| / |e'|) * (|r'| * |e'|) := by gcongr

/-! ### Magnitudes -/

/-- The magnitude of `e` is within a factor 2^n of 1. -/
def Within (n : Nat) (e : ℚ) : Prop := 1 / 2 ^ n ≤ |e| ∧ |e| ≤ 2 ^ n

theorem Within.ne_zero {n : Nat} {e : ℚ} (h : Within n e) : e ≠ 0 :=
  abs_pos.mp (lt_of_lt_of_le (by positivity) h.1)

theorem Within.mul {m n : Nat} {e e' : ℚ} (h : Within m e) (h' : Within n e') : Within (m + n) (e * e') := by
  obtain ⟨hlow, hhigh⟩ := h
  obtain ⟨hlow', hhigh'⟩ := h'
  rw [Within, abs_mul, pow_add, ← one_div_mul_one_div]
  exact ⟨mul_le_mul hlow hlow' (by positivity) (abs_nonneg e), mul_le_mul hhigh hhigh' (abs_nonneg e') (by positivity)⟩

theorem Within.inv {n : Nat} {e : ℚ} (h : Within n e) : Within n (1 / e) := by
  have hpos := abs_pos.mpr h.ne_zero
  obtain ⟨hlow, hhigh⟩ := h
  rw [Within, abs_div, abs_one]
  exact ⟨one_div_le_one_div_of_le hpos hhigh, (one_div_le hpos (by positivity)).mpr hlow⟩

theorem Within.div {m n : Nat} {e e' : ℚ} (h : Within m e) (h' : Within n e') : Within (m + n) (e / e') := by
  have hprod := h.mul h'.inv
  rwa [mul_one_div] at hprod

/-- What is near a number of the middle of the range lies in the range. -/
theorem Near.inRange {c r e : ℚ} {n : Nat} (h : Near c r e) (hc : c ≤ 1 / 2) (he : Within n e) (hn : n ≤ 100) :
    InRange r := by
  obtain ⟨hlow, hhigh⟩ := he
  have hpow : (2 : ℚ) ^ n ≤ 2 ^ 100 := pow_le_pow_right₀ (by norm_num) hn
  have hinv : (1 : ℚ) / 2 ^ 100 ≤ 1 / 2 ^ n := one_div_le_one_div_of_le (by positivity) hpow
  have hnonneg := abs_nonneg e
  have hrlow : |e| / 2 ≤ |r| := le_trans (by nlinarith) h.le_abs
  have hrhigh : |r| ≤ 2 * |e| := h.abs_le.trans (by nlinarith)
  have hsmall : (1 : ℚ) / 2 ^ 200 ≤ 1 / 2 ^ 100 / 2 := by norm_num
  have hbig : (2 : ℚ) * 2 ^ 100 ≤ 2 ^ 200 := by norm_num
  exact ⟨by linarith, by linarith⟩

theorem Within.inRange {n : Nat} {e : ℚ} (h : Within n e) (hn : n ≤ 100) : InRange e :=
  (Near.refl le_rfl e).inRange (by norm_num : (0 : ℚ) ≤ 1 / 2) h hn

/-! ### Computing with small errors -/

/-- The relative error that `k` operations leave at most. -/
def errorOf (k : Nat) : ℚ := 16 ^ k / 2 ^ 53

/-- The pattern `x` is `e` but for the relative error of `k` operations. -/
def Approx (k : Nat) (x : DWord) (e : ℚ) : Prop := ∃ r, IsF64 x r ∧ Near (errorOf k) r e

theorem errorOf_pos (k : Nat) : 0 < errorOf k := by
  unfold errorOf
  positivity

theorem errorOf_succ (k : Nat) : errorOf (k + 1) = 16 * errorOf k := by
  unfold errorOf
  ring

theorem errorOf_mono {j k : Nat} (h : j ≤ k) : errorOf j ≤ errorOf k := by
  unfold errorOf
  gcongr
  norm_num

theorem errorOf_small {k : Nat} (h : k ≤ 6) : errorOf k ≤ 1 / 2 ^ 29 := by
  refine (errorOf_mono h).trans ?_
  norm_num [errorOf]

theorem IsF64.approx {x : DWord} {e : ℚ} (h : IsF64 x e) (k : Nat) : Approx k x e :=
  ⟨e, h, .refl (errorOf_pos k).le e⟩

theorem Approx.mono {j k : Nat} {x : DWord} {e : ℚ} (h : Approx j x e) (hjk : j ≤ k) : Approx k x e := by
  obtain ⟨r, hr, hnear⟩ := h
  exact ⟨r, hr, hnear.mono (errorOf_mono hjk)⟩

/-- One more rounding, of a result whose error is at most four times that of `k` operations. -/
theorem Rounds.approx {k : Nat} {x : DWord} {r e : ℚ} (h : Rounds x r) (hnear : Near (4 * errorOf k) r e) (hk : k ≤ 5) :
    Approx (k + 1) x e := by
  obtain ⟨r', hr', herr, -⟩ := h
  have hround : Near (errorOf k) r' r := by
    have hzero : Near (errorOf 0) r' r := by rwa [Near, errorOf, pow_zero, one_div_mul_eq_div]
    exact hzero.mono (errorOf_mono (Nat.zero_le k))
  have hpos := errorOf_pos k
  have hsmall := errorOf_small (k := k) (by omega)
  refine ⟨r', hr', (hround.trans hnear hpos.le).mono ?_⟩
  rw [errorOf_succ]
  nlinarith

theorem approx_f64Mul {k n : Nat} (t : NanTag) {x y : DWord} {e e' : ℚ} (hx : Approx k x e) (hy : Approx k y e')
    (hk : k ≤ 5) (hrange : Within n (e * e')) (hn : n ≤ 100) : Approx (k + 1) (f64Mul t x y) (e * e') := by
  obtain ⟨r, hr, hnear⟩ := hx
  obtain ⟨r', hr', hnear'⟩ := hy
  have hpos := errorOf_pos k
  have hsmall := errorOf_small (k := k) (by omega)
  have hprod := (hnear.mul hnear' (by linarith)).mono (show 3 * errorOf k ≤ 4 * errorOf k by linarith)
  exact (rounds_f64Mul t hr hr' (.inr (hprod.inRange (by linarith) hrange hn))).approx hprod hk

theorem approx_f64Div {k n : Nat} (t : NanTag) {x y : DWord} {e e' : ℚ} (hx : Approx k x e) (hy : Approx k y e')
    (hk : k ≤ 5) (he : e' ≠ 0) (hrange : Within n (e / e')) (hn : n ≤ 100) : Approx (k + 1) (f64Div t x y) (e / e') := by
  obtain ⟨r, hr, hnear⟩ := hx
  obtain ⟨r', hr', hnear'⟩ := hy
  have hpos := errorOf_pos k
  have hsmall := errorOf_small (k := k) (by omega)
  have hquot := hnear.div hnear' hpos.le (by linarith) he
  have hne : r' ≠ 0 := by
    have hlow := hnear'.le_abs
    have := mul_pos (by linarith : 0 < 1 - errorOf k) (abs_pos.mpr he)
    exact abs_pos.mp (by linarith)
  exact (rounds_f64Div t hr hr' hne (.inr (hquot.inRange (by linarith) hrange hn))).approx hquot hk

/-- Adding an exact number does not magnify the error of a number that is no larger than the sum. -/
theorem approx_f64Add {k n : Nat} (t : NanTag) {x y : DWord} {e e' : ℚ} (hx : IsF64 x e) (hy : Approx k y e')
    (hk : k ≤ 5) (hle : |e'| ≤ |e + e'|) (hrange : Within n (e + e')) (hn : n ≤ 100) :
    Approx (k + 1) (f64Add t x y) (e + e') := by
  obtain ⟨r', hr', hnear'⟩ := hy
  have hpos := errorOf_pos k
  have hsmall := errorOf_small (k := k) (by omega)
  have hsum : Near (4 * errorOf k) (e + r') (e + e') := by
    have hsame : e + r' - (e + e') = r' - e' := by ring
    rw [Near, hsame]
    have hfour : Near (4 * errorOf k) r' e' := hnear'.mono (by linarith)
    exact le_trans hfour (mul_le_mul_of_nonneg_left hle (by linarith))
  exact (rounds_f64Add t hx hr' (.inr (hsum.inRange (by linarith) hrange hn))).approx hsum hk

/-! ### The default formula at the native rate -/

/-- TWO_PI is a number between 4 and 8 (R136). -/
theorem isF64_twoPi : ∃ p, IsF64 twoPi p ∧ Within 3 p := by
  have hval : f64Val twoPi = .fin false (0x1921FB54442D18 * 2 ^ 1024) := by decide +kernel
  refine ⟨0x1921FB54442D18 / 2 ^ 50, ⟨false, _, hval, ?_⟩, ?_⟩
  · have hunit : (2 : ℚ) ^ binary64.unitLog = 2 ^ 50 * 2 ^ 1024 := by rw [← pow_add]; rfl
    rw [hunit, ← mul_assoc, div_mul_cancel₀ _ (by positivity), signedMag_cast, if_neg (by decide), one_mul, Nat.cast_mul,
      Nat.cast_pow]
    rfl
  · norm_num [Within]

/-- A Q15 gain other than zero, and its distance from 1, are of middling magnitude. -/
theorem within_gain {f : Half} (hf : f.toInt ≠ 0) :
    Within 15 (f.toInt / 2 ^ 15 : ℚ) ∧ |(f.toInt / 2 ^ 15 : ℚ)| ≤ 1 ∧ 0 < (1 - f.toInt / 2 ^ 15 : ℚ) ∧ Within 15 (1 - f.toInt / 2 ^ 15 : ℚ) := by
  have hle := abs_toInt_le f
  have hlt := f.toInt_lt
  have hge := f.le_toInt
  have hone : (1 : ℚ) ≤ |(f.toInt : ℚ)| := by exact_mod_cast Int.one_le_abs hf
  have hbig : |(f.toInt : ℚ)| ≤ 2 ^ 15 := by exact_mod_cast hle
  have hlow : (f.toInt : ℚ) + 1 ≤ 2 ^ 15 := by exact_mod_cast (by omega : f.toInt + 1 ≤ 2 ^ 15)
  have hhigh : -(2 : ℚ) ^ 15 ≤ f.toInt := by exact_mod_cast (by omega : -2 ^ 15 ≤ f.toInt)
  have hrest : (1 - f.toInt / 2 ^ 15 : ℚ) = (2 ^ 15 - f.toInt) / 2 ^ 15 := by field_simp
  have hpos : 0 < (1 - f.toInt / 2 ^ 15 : ℚ) := by
    rw [hrest]
    exact div_pos (by linarith) (by norm_num)
  have habs : |(f.toInt / 2 ^ 15 : ℚ)| = |(f.toInt : ℚ)| / 2 ^ 15 := by
    rw [abs_div, abs_of_pos (by norm_num : (0 : ℚ) < 2 ^ 15)]
  have hle1 : |(f.toInt / 2 ^ 15 : ℚ)| ≤ 1 := by
    rw [habs, div_le_one (by norm_num)]
    exact hbig
  refine ⟨⟨?_, hle1.trans (by norm_num)⟩, hle1, hpos, ?_⟩
  · rw [habs, div_le_div_iff_of_pos_right (by norm_num)]
    exact hone
  · rw [Within, abs_of_pos hpos, hrest, div_le_div_iff_of_pos_right (by norm_num), div_le_iff₀ (by norm_num)]
    exact ⟨by linarith, by linarith⟩

/-- The f32 number of a Q15 gain (R135). -/
theorem signedMag_gain (f : Half) :
    (FloatFormat.signedMag f.msb (f.toInt.natAbs * 2 ^ 134) : ℚ) = (f.toInt / 2 ^ 15 : ℚ) * 2 ^ 149 := by
  have hsplit : (2 : ℚ) ^ 149 = 2 ^ 15 * 2 ^ 134 := by rw [← pow_add]
  have hmag : (FloatFormat.signedMag f.msb f.toInt.natAbs : ℚ) = f.toInt := by
    rw [BitVec.msb_eq_toInt, signedMag_natAbs]
  rw [hsplit, ← mul_assoc, div_mul_cancel₀ _ (by norm_num), ← hmag, signedMag_cast, signedMag_cast, Nat.cast_mul,
    Nat.cast_pow, Nat.cast_ofNat, mul_assoc]

/-- A gain read back in binary64 (R136). -/
theorem isF64_gainWord (t : NanTag) (f : Half) : IsF64 (toF64 t (gainWord f)) (f.toInt / 2 ^ 15) := by
  have hle := abs_toInt_le f
  have hrange : (f.toInt / 2 ^ 15 : ℚ) = 0 ∨ InRange (f.toInt / 2 ^ 15) := by
    rcases eq_or_ne f.toInt 0 with h0 | hne
    · exact .inl (by simp [h0])
    · exact .inr ((within_gain hne).1.inRange (by norm_num))
  exact (rounds_toF64 t (f32Val_gainWord f) (signedMag_gain f) hrange).isF64 f.toInt (by omega) (div_mul_cancel₀ _ (by norm_num))

theorem within_nativeRate : Within 15 (22050 : ℚ) := by
  norm_num [Within]

/-- The formula's `w` at 22050 Hz is a / (1 - a), but for four small errors: two products with small multiples of 2^-15 are
exact, and TWO_PI and the rate cancel. -/
theorem approx_cutoff {f : Half} (hf : f.toInt ≠ 0) : Approx 4
    (f64Div (deriveTag 12)
      (f64Mul (deriveTag 13) twoPi
        (f64Div (deriveTag 10) (f64Mul (deriveTag 11) (f64OfInt Config.nativeRate) (toF64 (deriveTag 7) (gainWord f)))
          (f64Mul (deriveTag 9) twoPi (f64Sub (deriveTag 8) (f64OfInt 1) (toF64 (deriveTag 7) (gainWord f))))))
      (toF64 (deriveTag 14) 0x46AC4400))
    (f.toInt / 2 ^ 15 / (1 - f.toInt / 2 ^ 15)) := by
  have hle := abs_le.mp (abs_toInt_le f)
  obtain ⟨hwa, -, hpos, hwt⟩ := within_gain hf
  obtain ⟨p, hp, hwp⟩ := isF64_twoPi
  have ha := isF64_gainWord (deriveTag 7) f
  have hrate : IsF64 (toF64 (deriveTag 14) 0x46AC4400) 22050 := by
    have hsame : toF64 (deriveTag 14) 0x46AC4400 = f64OfInt Config.nativeRate := by decide +kernel
    rw [hsame]
    exact isF64_nativeRate
  have hunits : (f.toInt / 2 ^ 15 : ℚ) * 2 ^ 15 = f.toInt := div_mul_cancel₀ _ (by norm_num)
  generalize (f.toInt / 2 ^ 15 : ℚ) = a at *
  have hwna := within_nativeRate.mul hwa
  have hwt2 := hwp.mul hwt
  have hwfc := hwna.div hwt2
  have hwm2 := hwp.mul hwfc
  have ht1 := (rounds_f64Sub (deriveTag 8) isF64_one ha (.inr (hwt.inRange (by norm_num)))).isF64 (2 ^ 15 - f.toInt)
    (by rw [abs_lt]; omega) (by push_cast; linarith)
  have hna := (rounds_f64Mul (deriveTag 11) isF64_nativeRate ha (.inr (hwna.inRange (by norm_num)))).isF64 (22050 * f.toInt)
    (by rw [abs_lt]; omega) (by push_cast; linarith)
  have ht2 := approx_f64Mul (deriveTag 9) (hp.approx 0) (ht1.approx 0) (by norm_num) hwt2 (by norm_num)
  have hfc := approx_f64Div (deriveTag 10) (hna.approx 1) ht2 (by norm_num) hwt2.ne_zero hwfc (by norm_num)
  have hm2 := approx_f64Mul (deriveTag 13) (hp.approx 2) hfc (by norm_num) hwm2 (by norm_num)
  have hw := approx_f64Div (deriveTag 12) hm2 (hrate.approx 3) (by norm_num) within_nativeRate.ne_zero
    (hwm2.div within_nativeRate) (by norm_num)
  have hp0 := hwp.ne_zero
  have hcancel : p * (22050 * a / (p * (1 - a))) / 22050 = a / (1 - a) := by field_simp
  rwa [hcancel] at hw

/-- The default formula at 22050 Hz is its gain, but for six small errors. -/
theorem approx_iirRetune {f : Half} (hf : f.toInt ≠ 0) :
    ∃ x, iirRetune (gainWord f) 0x46AC4400 = toF32 (deriveTag 15) x ∧ Approx 6 x (f.toInt / 2 ^ 15) := by
  obtain ⟨hwa, ha1, hpos, hwt⟩ := within_gain hf
  have hw := approx_cutoff hf
  refine ⟨_, rfl, ?_⟩
  generalize (f.toInt / 2 ^ 15 : ℚ) = a at *
  have hsum : 1 + a / (1 - a) = 1 / (1 - a) := by
    field_simp
    ring
  have hwsum : Within 15 (1 + a / (1 - a)) := hsum ▸ hwt.inv
  have hsumle : |a / (1 - a)| ≤ |1 + a / (1 - a)| := by
    rw [hsum, abs_div, abs_div, abs_one]
    gcongr
  have hs := approx_f64Add (deriveTag 17) isF64_one hw (by norm_num) hsumle hwsum (by norm_num)
  have hres := approx_f64Div (deriveTag 16) (hw.mono (by norm_num)) hs (by norm_num) hwsum.ne_zero
    ((hwa.div hwt).div hwsum) (by norm_num)
  have hback : a / (1 - a) / (1 + a / (1 - a)) = a := by
    rw [hsum]
    field_simp
  rwa [hback] at hres

/-- The default formula gives every Q15 gain back at 22050 Hz (log 12): its error is below the gap between f32 numbers. -/
theorem iirRetune_native (f : Half) : iirRetune (gainWord f) 0x46AC4400 = gainWord f := by
  rcases eq_or_ne f.toInt 0 with hzero | hne
  · obtain rfl : f = 0 := BitVec.eq_of_toInt_eq (hzero.trans BitVec.toInt_zero.symm)
    decide +kernel
  · obtain ⟨x, hx, r, hr, hnear⟩ := approx_iirRetune hne
    rw [hx]
    refine toF32_of_near (deriveTag 15) hr (f32Val_gainWord f) (signedMag_gain f) (within_gain hne).1.ne_zero ?_
    have hsmall : errorOf 6 ≤ (2 ^ 27)⁻¹ := (errorOf_small le_rfl).trans (by norm_num)
    exact le_of_le_of_eq (hnear.mono hsmall) (inv_mul_eq_div _ _)

/-! ### The parameters' points -/

/-- The first entry for a point gives IIR_RETUNE there (R7, log 19). -/
theorem retune_of_first {ps : Params} {before after : List RetunePoint} {p : RetunePoint}
    (hlist : ps.retunePoints = before ++ p :: after)
    (hfirst : ∀ q ∈ before, ¬ (q.alpha = p.alpha ∧ q.rate = p.rate)) : ps.retune p.alpha p.rate = p.result := by
  have hbefore : before.find? (fun q => q.alpha == p.alpha && q.rate == p.rate) = none := by
    simpa [List.find?_eq_none] using hfirst
  have hpoint : ps.retunePoint p.alpha p.rate = some p.result := by
    rw [Params.retunePoint, hlist, List.find?_append, hbefore]
    simp
  rw [Params.retune, hpoint]

/-- Settles O39: a listed point gives its result, an unlisted one the default formula, which is `iirRetune_native` at
22050 Hz. -/
theorem retuneIsTheIdentityAtTheNativeRate : Obligations.RetuneIsTheIdentityAtTheNativeRate :=
  ⟨fun _ _ _ _ => retune_of_first, fun _ _ _ => retune_of_unlisted,
    fun _ f hunlisted => (retune_of_unlisted hunlisted).trans (iirRetune_native f)⟩

end Sys2Proof.Machine
end
